-- ==== Sys2Proof/Word.lean ====
section
/-! DEFINITION. The word types of FPCODEC: the 64-bit operands and results and the 32-bit command word
(00_scope.md R9). -/

namespace Sys2Proof

/-- A 64-bit word: a right-aligned bit pattern, a binary64 pattern or a result register (R9). -/
abbrev Word64 := BitVec 64

/-- A 32-bit command word CW (R9, R80). -/
abbrev CmdWord := BitVec 32

end Sys2Proof
end

