-- ==== Sys2Proof/Config.lean ====
section
/-! DEFINITION. What an implementation of FPCODEC fixes. The one open parameter of the spec is P_LAT
(00_scope.md R10); a State carries it as data, so that every statement over all states is a statement over every
P_LAT, and this file names the value State.reset carries. -/

namespace Sys2Proof

/-- P_LAT - 1 in `State.reset`: P_LAT = 1, the single-cycle unit.
DESIGN CHOICE (log entry 2, safe where a statement ranges over all states): R10 leaves P_LAT open. -/
def Config.resetPLatPred : Nat := 0

/-- The widest layout the unit decodes or encodes, in bits (00_scope.md R8, R9). -/
def Config.maxTotal : Nat := 64

end Sys2Proof
end

