-- ==== Sys2Proof/Syntax.lean ====
section
/-! DEFINITION. The commands of FPCODEC as syntax: one constructor per row of spec/opcode_table.json, the words that
carry them, and the lines of the spec's assembler (30_encoding.md). -/

namespace Sys2Proof

/-- The base in which the host failed to read its text (30_encoding.md R85, 10_state.md R28). -/
inductive ParseBase where
  | hex
  | bin
  deriving DecidableEq, Repr

/-- One accepted command as the port carries it: cmd_word and cmd_data (30_encoding.md R80, 20_memory.md R68). -/
structure Command where
  word : CmdWord
  data : Word64
  deriving DecidableEq, Repr

/-- The seven commands (30_encoding.md R87). A command that reads cmd_data carries it.
DESIGN CHOICE (log entry 6, safe): the data word is a field of the instruction. -/
inductive Instr where
  /-- NOP, no operation (R100). -/
  | nop
  /-- SETFMT TAG (R104); any 4-bit TAG, the reserved 9 to 15 among them. -/
  | setfmt (tag : BitVec 4)
  /-- SETLAY LE, LM (R106); any 6-bit widths, the refused LE = 0 among them. -/
  | setlay (le lm : BitVec 6)
  /-- DECODE with its right-aligned bit pattern (R126). -/
  | decode (b : Word64)
  /-- ENCODE with its binary64 operand (R160). -/
  | encode (v : Word64)
  /-- DECERR with the base that failed (R128). -/
  | decerr (base : ParseBase)
  /-- ENCERR (R163). -/
  | encerr
  deriving DecidableEq, Repr

/-- The named formats, in the source's order (40_layout.md R102). -/
inductive FormatName where
  | fp32 | fp16 | bf16 | tf32 | fp8e4m3 | fp8e5m2 | fp4 | ue8m0 | custom
  deriving DecidableEq, Repr

/-- A line of the spec's assembler, its numbers already read (30_encoding.md R94, R95).
DESIGN CHOICE (log entry 13, safe): the text of a number is outside the unit (R6). -/
inductive AsmLine where
  | nop
  | setfmt (name : FormatName)
  | setfmtTag (tag : BitVec 4)
  | setlay (e m : BitVec 6)
  | decode (pattern : Word64)
  | encode (value : Word64)
  | decerr (base : ParseBase)
  | encerr
  /-- The pseudo-command LAYOUT E, M (R95). -/
  | layout (e m : BitVec 6)
  deriving DecidableEq, Repr

end Sys2Proof
end

