-- ==== Sys2Proof/WellFormed.lean ====
section
/-! DEFINITION. Which commands hold no reserved argument value (30_encoding.md R91). A command that does is still
decoded and executed: the unit refuses it with a status (R104, R106). -/

namespace Sys2Proof

/-- No reserved argument value: a SETFMT TAG of 0 to 8 and a SETLAY LE of at least 1; every other command has none
(R91). A width sum above 64 is no such value: SETLAY accepts it (R106).
DESIGN CHOICE (log entry 9, safe): the spec has no word "well-formed". -/
def Instr.wellFormed : Instr → Bool
  | .nop => true
  | .setfmt tag => decide (tag.toNat ≤ 8)
  | .setlay le _ => decide (le ≠ 0#6)
  | .decode _ => true
  | .encode _ => true
  | .decerr _ => true
  | .encerr => true

end Sys2Proof
end

