-- ==== Sys2Proof/Decode.lean ====
section
/-! DEFINITION. The command decoder, total on every command word and data word, and after it the encoder and the
spec's assembler (30_encoding.md). -/

namespace Sys2Proof

/-! ## Fields of the command word (R81 to R85) -/

/-- OP = CW[31:28] (R81). -/
def cwOp (w : CmdWord) : BitVec 4 := w.extractLsb' 28 4
/-- RSV = CW[27:16], ignored by every command (R81). -/
def cwRsv (w : CmdWord) : BitVec 12 := w.extractLsb' 16 12
/-- ARG = CW[15:0] (R81). -/
def cwArg (w : CmdWord) : BitVec 16 := w.extractLsb' 0 16
/-- TAG = CW[3:0] (R83). -/
def cwTag (w : CmdWord) : BitVec 4 := w.extractLsb' 0 4
/-- LE = CW[13:8] (R84). -/
def cwLe (w : CmdWord) : BitVec 6 := w.extractLsb' 8 6
/-- LM = CW[5:0] (R84). -/
def cwLm (w : CmdWord) : BitVec 6 := w.extractLsb' 0 6
/-- BASE = CW[0]: 0 hex, 1 binary (R85). -/
def cwBase (w : CmdWord) : ParseBase := if w.getLsbD 0 then .bin else .hex

/-! ## Decoding (R87, R89) -/

/-- Why a command word is no command. -/
inductive DecodeReject where
  /-- OP is 0x7 to 0xF (R90). The unit still executes the word, as the illegal command of R183. -/
  | illegalOpcode (op : BitVec 4)
  deriving DecidableEq, Repr

/-- The command a word selects, by OP alone, whatever the ignored bits hold (R87, R89, R92). -/
def decodeCommand (c : Command) : Except DecodeReject Instr :=
  match (cwOp c.word).toNat with
  | 0 => .ok .nop
  | 1 => .ok (.setfmt (cwTag c.word))
  | 2 => .ok (.setlay (cwLe c.word) (cwLm c.word))
  | 3 => .ok (.decode c.data)
  | 4 => .ok (.encode c.data)
  | 5 => .ok (.decerr (cwBase c.word))
  | 6 => .ok .encerr
  | _ => .error (.illegalOpcode (cwOp c.word))

/-- The command whose bits are `w`, numbered as the table numbers them: cmd_word is bits 31..0 and cmd_data bits
95..32; every bit from `nbits` on is 0.
DESIGN CHOICE (log entry 6): cmd_data is numbered on from the command word. -/
def commandOfBits (nbits w : Nat) : Command :=
  { word := BitVec.ofNat 32 (w % 2 ^ nbits), data := BitVec.ofNat 64 (w % 2 ^ nbits / 2 ^ 32) }

/-- The instruction the decoder reads from an instruction whose bits are `w`. -/
def decodeTableWord (nbits w : Nat) : Option Instr :=
  match decodeCommand (commandOfBits nbits w) with
  | .ok i => some i
  | .error _ => none

/-! ## Encoding (R81 to R87, R94) -/

/-- BASE as the field of DECERR's word (R85). -/
def baseField : ParseBase → CmdWord
  | .hex => 0#32
  | .bin => 1#32

/-- The words of a command, every ignored bit and unread data word 0, as the assembler writes them (R92, R94). -/
def encodeCommand : Instr → Command
  | .nop => { word := 0x00000000#32, data := 0#64 }
  | .setfmt tag => { word := 0x10000000#32 ||| tag.setWidth 32, data := 0#64 }
  | .setlay le lm => { word := 0x20000000#32 ||| (le.setWidth 32 <<< 8) ||| lm.setWidth 32, data := 0#64 }
  | .decode b => { word := 0x30000000#32, data := b }
  | .encode v => { word := 0x40000000#32, data := v }
  | .decerr base => { word := 0x50000000#32 ||| baseField base, data := 0#64 }
  | .encerr => { word := 0x60000000#32, data := 0#64 }

/-- The bits of the command word that a command reads, OP among them; every other bit is ignored (R82 to R85, R92). -/
def Instr.readMask : Instr → CmdWord
  | .nop => 0xF0000000#32
  | .setfmt _ => 0xF000000F#32
  | .setlay _ _ => 0xF0003F3F#32
  | .decode _ => 0xF0000000#32
  | .encode _ => 0xF0000000#32
  | .decerr _ => 0xF0000001#32
  | .encerr => 0xF0000000#32

/-- Whether a command reads cmd_data (R82 to R85). -/
def Instr.readsData : Instr → Bool
  | .decode _ => true
  | .encode _ => true
  | .nop => false
  | .setfmt _ => false
  | .setlay _ _ => false
  | .decerr _ => false
  | .encerr => false

/-! ## The assembler (R94, R95) -/

/-- The tag of a named format (R94, R102). -/
def FormatName.tag : FormatName → BitVec 4
  | .fp32 => 0#4
  | .fp16 => 1#4
  | .bf16 => 2#4
  | .tf32 => 3#4
  | .fp8e4m3 => 4#4
  | .fp8e5m2 => 5#4
  | .fp4 => 6#4
  | .ue8m0 => 7#4
  | .custom => 8#4

/-- The lower-case name of a named format (R94). -/
def FormatName.syntaxName : FormatName → String
  | .fp32 => "fp32"
  | .fp16 => "fp16"
  | .bf16 => "bf16"
  | .tf32 => "tf32"
  | .fp8e4m3 => "fp8e4m3"
  | .fp8e5m2 => "fp8e5m2"
  | .fp4 => "fp4"
  | .ue8m0 => "ue8m0"
  | .custom => "custom"

/-- The commands of one assembler line; LAYOUT is SETFMT custom then SETLAY (R94, R95). -/
def AsmLine.expand : AsmLine → List Instr
  | .nop => [.nop]
  | .setfmt name => [.setfmt name.tag]
  | .setfmtTag tag => [.setfmt tag]
  | .setlay e m => [.setlay e m]
  | .decode pattern => [.decode pattern]
  | .encode value => [.encode value]
  | .decerr base => [.decerr base]
  | .encerr => [.encerr]
  | .layout e m => [.setfmt FormatName.custom.tag, .setlay e m]

/-- The command words of an assembler program (R94). -/
def assemble (lines : List AsmLine) : List Command := (lines.flatMap AsmLine.expand).map encodeCommand

end Sys2Proof
end

