-- ==== Sys2Proof/Machine/State.lean ====
section
/-! DEFINITION. Everything the spec gives FPCODEC to hold (10_state.md), the reasons a step can stop, and the state
after reset (10_state.md R51). -/

namespace Sys2Proof.Machine

/-- STATUS, the outcome of the last command that wrote it (10_state.md R30, 60_exceptions.md R180). Its 3-bit code is
`Status.code`; code 7 is never written and has no constructor. -/
inductive Status where
  | ok
  | errHex
  | errBin
  | errFloat
  | errWidth
  | errLayout
  | errCmd
  deriving DecidableEq, Repr

/-- CLASS, the kind of decoded result (10_state.md R31). Its 2-bit code is `DecClass.code`. -/
inductive DecClass where
  /-- NONE: no numeric result, after a decode-side error. -/
  | noResult
  | number
  | inf
  | nan
  deriving DecidableEq, Repr

/-- The result of a decode: the tuple DEC_CORE gives (41_decode.md R121), and what the result registers but STATUS
hold (10_state.md R29). -/
structure Decoded where
  cls : DecClass
  sign : Bool
  value : Word64
  sig : Word64
  exp2 : Word64
  pba : Word64
  deriving DecidableEq, Repr

/-- What the host drives on the input ports at one rising edge of clk (10_state.md R46, R47). -/
structure Pins where
  rst : Bool
  cmdValid : Bool
  cmdWord : CmdWord
  cmdData : Word64
  deriving DecidableEq, Repr

/-- The state of the unit, with the host's coming inputs. The first thirteen fields are the registers of the output
ports (10_state.md R48). -/
structure State where
  /-- FMT, the active format tag (R23). -/
  fmt : BitVec 4
  /-- LAY_E, the exponent width (R24). -/
  layE : BitVec 6
  /-- LAY_M, the mantissa width (R24). -/
  layM : BitVec 6
  /-- BITS, the current pattern (R26). -/
  bits : Word64
  /-- SRCV, source valid (R27). -/
  srcv : Bool
  /-- SRCB, the base of the last failed parse (R28). -/
  srcb : ParseBase
  /-- STATUS (R30). -/
  status : Status
  /-- CLASS (R31). -/
  cls : DecClass
  /-- SIGN (R32). -/
  sign : Bool
  /-- VALUE, a binary64 pattern (R33). -/
  value : Word64
  /-- SIG, the exact significand (R34). -/
  sig : Word64
  /-- EXP2, the exact exponent, two's complement (R35). -/
  exp2 : Word64
  /-- PBA, the per-bit array, index i at bit i (R36). -/
  pba : Word64
  /-- BUSY (R37). -/
  busy : Bool
  /-- CMDQ, the latched command (R37). DESIGN CHOICE (log entry 3): its value while BUSY = 0. -/
  cmdq : Command
  /-- The rising edges until the command in flight commits; meaningful while BUSY = 1. DEDUCED from R204 (log entry 4). -/
  edgesLeft : Nat
  /-- The parameter P_LAT less one, so that P_LAT is at least 1 (R10); no step changes it (log entry 2). -/
  pLatPred : Nat
  /-- The host's inputs at the coming edges, the next one first; past its end the host drives rst = 0 and
  cmd_valid = 0. DESIGN CHOICE (log entry 1). -/
  pins : List Pins
  deriving DecidableEq, Repr

/-- Reasons for which the unit stops: there are none. "No error stops, stalls or resets the unit" (60_exceptions.md
R185), and every accepted command commits (R187). Safe or unsafe does not arise (log entry 15). -/
inductive Fault where
  deriving DecidableEq, Repr

/-- Reasons for which the model has no meaning for a command. -/
inductive Refusal where
  /-- Raised by an arm of `exec` whose instruction has no meaning yet; no arm raises it now. Safe: the run stops. -/
  | notModelled (mnemonic : String)
  deriving DecidableEq, Repr

/-- The state right after a reset edge (10_state.md R51), with no command in flight and nothing driven.
CMDQ, edgesLeft, pLatPred and pins are DESIGN CHOICE values (log entries 3, 4, 2 and 1; unsafe for a claim that rests
on them). -/
def State.reset : State where
  fmt := 0#4
  layE := 8#6
  layM := 23#6
  bits := 0#64
  srcv := true
  srcb := .hex
  status := .ok
  cls := .number
  sign := false
  value := 0#64
  sig := 0#64
  exp2 := 0xFFFFFFFFFFFFFF6B#64
  pba := 0#64
  busy := false
  cmdq := { word := 0#32, data := 0#64 }
  edgesLeft := 0
  pLatPred := Config.resetPLatPred
  pins := []

end Sys2Proof.Machine
end

