-- ==== Sys2Proof/Machine/Operands.lean ====
section
/-! DEFINITION. How operands are read: the quantities derived from a layout (10_state.md R39 to R42), the fields of a
pattern, the binary64 reading of a word (00_scope.md R17) and the presets (40_layout.md R102). -/

namespace Sys2Proof.Machine

/-! ## Layout quantities (R39 to R41) -/

/-- total = 1 + E + M (R39). -/
def totalBits (E M : Nat) : Nat := 1 + E + M
/-- bias = 2^(E-1) - 1 (R39). -/
def bias (E : Nat) : Nat := 2 ^ (E - 1) - 1
/-- emask = 2^E - 1 (R39). -/
def emask (E : Nat) : Nat := 2 ^ E - 1
/-- mmask = 2^M - 1 (R39). -/
def mmask (M : Nat) : Nat := 2 ^ M - 1
/-- min_exp = 1 - bias (R40, R159). -/
def minExp (E : Nat) : Int := 1 - (bias E : Int)
/-- max_exp = 2^E - 2 - bias (R40, R159). -/
def maxExp (E : Nat) : Int := 2 ^ E - 2 - (bias E : Int)
/-- lowmask(t) = 2^min(t, 64) - 1 (00_scope.md R16). -/
def lowmask (t : Nat) : Word64 := BitVec.ofNat 64 (2 ^ min t 64 - 1)

/-- E as the layout register holds it (R24). -/
def State.widthE (s : State) : Nat := s.layE.toNat
/-- M as the layout register holds it (R24). -/
def State.widthM (s : State) : Nat := s.layM.toNat
/-- total of the active layout (R39). -/
def State.total (s : State) : Nat := totalBits s.widthE s.widthM
/-- WIDE: the active layout is wider than 64 bits (R41). -/
def State.wide (s : State) : Bool := decide (Config.maxTotal < s.total)

/-! ## Fields of a pattern (R12, R42) -/

/-- SF, bit total-1 of the pattern (R42). -/
def signField (b : Word64) (E M : Nat) : Bool := b.getLsbD (totalBits E M - 1)
/-- EF = (bits >> M) & emask, the field of width E above the mantissa, as an unsigned integer (R42, R12). -/
def expField (b : Word64) (E M : Nat) : Nat := b.toNat / 2 ^ M % 2 ^ E
/-- MF = bits & mmask, the low M bits as an unsigned integer, 0 when M = 0 (R42, R12). -/
def mantField (b : Word64) (M : Nat) : Nat := b.toNat % 2 ^ M

/-! ## Reading a binary64 word (R17) -/

/-- s = v[63]. -/
def f64Sign (v : Word64) : Bool := v.getLsbD 63
/-- ev = v[62:52]. -/
def f64Ev (v : Word64) : Nat := v.toNat / 2 ^ 52 % 2 ^ 11
/-- fv = v[51:0]. -/
def f64Fv (v : Word64) : Nat := v.toNat % 2 ^ 52
/-- v is a NaN. -/
def f64IsNaN (v : Word64) : Bool := decide (f64Ev v = 2047 ∧ f64Fv v ≠ 0)
/-- v is an infinity. -/
def f64IsInf (v : Word64) : Bool := decide (f64Ev v = 2047 ∧ f64Fv v = 0)
/-- v is a zero. -/
def f64IsZero (v : Word64) : Bool := decide (f64Ev v = 0 ∧ f64Fv v = 0)
/-- The integer m of the exact magnitude |v| = m · 2^e of a finite v. -/
def f64Sig (v : Word64) : Nat := if f64Ev v = 0 then f64Fv v else 2 ^ 52 + f64Fv v
/-- The exponent e of the exact magnitude |v| = m · 2^e of a finite v. -/
def f64Exp (v : Word64) : Int := if f64Ev v = 0 then -1074 else (f64Ev v : Int) - 1075

/-! ## The format registry (40_layout.md R101, R102) -/

/-- The tag of Custom (R23, R102). -/
def customTag : BitVec 4 := 8#4

/-- PRESET(tag): the (E, M) of a named format; Custom (8) has none, and 9 to 15 name no format (R102). -/
def preset (tag : BitVec 4) : Option (BitVec 6 × BitVec 6) :=
  match tag.toNat with
  | 0 => some (8#6, 23#6)
  | 1 => some (5#6, 10#6)
  | 2 => some (8#6, 7#6)
  | 3 => some (8#6, 10#6)
  | 4 => some (4#6, 3#6)
  | 5 => some (5#6, 2#6)
  | 6 => some (2#6, 1#6)
  | 7 => some (8#6, 0#6)
  | _ => none

end Sys2Proof.Machine
end

