-- ==== Sys2Proof/Machine/Float64.lean ====
section
/-! DEFINITION. The numeric primitives of 00_scope.md R16: the binary64 constants, round_f64 (the rounding of the
decode value), rhaz (the rounding of encode) and ilog2, on exact values written m · 2^t with m a natural number and
t an integer. DEDUCED (log entry 11): every exact value the unit rounds has this form. -/

namespace Sys2Proof.Machine

/-- F64_PINF (R16). -/
def f64PInf : Word64 := 0x7FF0000000000000#64
/-- F64_NINF (R16). -/
def f64NInf : Word64 := 0xFFF0000000000000#64
/-- F64_QNAN (R16). -/
def f64QNaN : Word64 := 0x7FF8000000000000#64
/-- F64_PZERO (R16). -/
def f64PZero : Word64 := 0x0000000000000000#64
/-- F64_NZERO (R16). -/
def f64NZero : Word64 := 0x8000000000000000#64

/-- ilog2 of m · 2^t for m > 0: the integer k with 2^k ≤ m · 2^t < 2^(k+1) (R16). -/
def ilog2 (m : Nat) (t : Int) : Int := (Nat.log2 m : Int) + t

/-- rhaz(m · 2^t) = floor(m · 2^t + 1/2) (R16, R155). -/
def rhaz (m : Nat) (t : Int) : Nat :=
  if 0 ≤ t then m * 2 ^ t.toNat else (2 * m + 2 ^ (-t).toNat) / 2 ^ ((-t).toNat + 1)

/-- The integer nearest to m / 2^k, an exact half going to the even one (roundTiesToEven, R16). -/
def roundHalfEven (m k : Nat) : Nat :=
  let q := m / 2 ^ k
  let r := m % 2 ^ k
  if 2 ^ k < 2 * r ∨ (2 * r = 2 ^ k ∧ q % 2 = 1) then q + 1 else q

/-- The integer nearest to m · 2^t, an exact half going to the even one. -/
def roundScaledEven (m : Nat) (t : Int) : Nat :=
  if 0 ≤ t then m * 2 ^ t.toNat else roundHalfEven m (-t).toNat

/-- The low 63 bits of round_f64 of m · 2^t: the magnitude of the nearest binary64 under roundTiesToEven, as an
integer. In the last branch the value is rounded to a multiple n of its binary64 spacing 2^q; a subnormal has q =
-1074 and field n, a normal one has n in [2^52, 2^53], and a rounding up to 2^53, or to infinity at 2^1024, is the
carry of the sum. -/
def roundF64Magnitude (m : Nat) (t : Int) : Nat :=
  if m = 0 then 0
  else if 1024 ≤ ilog2 m t then f64PInf.toNat
  else if ilog2 m t < -1075 then 0
  else
    let q := max (ilog2 m t - 52) (-1074)
    (q + 1074).toNat * 2 ^ 52 + roundScaledEven m (t - q)

/-- round_f64(s, m · 2^t): the nearest binary64 pattern with sign s (R16). -/
def roundF64 (s : Bool) (m : Nat) (t : Int) : Word64 :=
  (if s then f64NZero else f64PZero) ||| BitVec.ofNat 64 (roundF64Magnitude m t)

end Sys2Proof.Machine
end

