-- ==== Sys2Proof/Machine/Decoder.lean ====
section
/-! DEFINITION. The configurable_fp_decoder: DEC_CORE (41_decode.md R121). -/

namespace Sys2Proof.Machine

/-- Markers 0 to n-1 of the per-bit array of the pattern `b` of `total` bits, marker i at bit i: bit total-1-i of the
pattern, and 0 from `total` on (R36, R121, R131). -/
def perBitArrayUpTo (b : Word64) (total : Nat) : Nat → Word64
  | 0 => 0#64
  | n + 1 =>
    if n < total ∧ b.getLsbD (total - 1 - n) = true then perBitArrayUpTo b total n ||| BitVec.twoPow 64 n
    else perBitArrayUpTo b total n

/-- PBA of the pattern `b` of `total` bits (R131). -/
def perBitArray (b : Word64) (total : Nat) : Word64 := perBitArrayUpTo b total 64

/-- DEC_CORE(b, E, M) for a layout of 1 ≤ E and 1 + E + M ≤ 64 (R121). -/
def decCore (b : Word64) (E M : Nat) : Decoded :=
  let sf := signField b E M
  let ef := expField b E M
  let mf := mantField b M
  let pba := perBitArray b (totalBits E M)
  if ef = emask E then
    if mf = 0 then
      { cls := .inf, sign := sf, value := if sf then f64NInf else f64PInf, sig := 0#64, exp2 := 0#64, pba := pba }
    else
      { cls := .nan, sign := sf, value := f64QNaN, sig := 0#64, exp2 := 0#64, pba := pba }
  else
    let sig := if ef = 0 then mf else 2 ^ M + mf
    let exp2 : Int := (if ef = 0 then 1 else (ef : Int)) - bias E - M
    { cls := .number, sign := sf, value := roundF64 sf sig exp2, sig := BitVec.ofNat 64 sig,
      exp2 := BitVec.ofInt 64 exp2, pba := pba }

/-- What the result registers but STATUS hold after a decode-side error: CLASS NONE and zeros (60_exceptions.md
R181). -/
def clearedResult : Decoded :=
  { cls := .noResult, sign := false, value := f64PZero, sig := 0#64, exp2 := 0#64, pba := 0#64 }

end Sys2Proof.Machine
end

