-- ==== Sys2Proof/Machine/Encoder.lean ====
section
/-! DEFINITION. The configurable_fp_encoder: ENC_CORE (42_encode.md R151), and beside it the reference program's
encode without the carry (93_implementation_defined.md I1), which no command calls. -/

namespace Sys2Proof.Machine

/-- The assembly (s << (total-1)) | (ef << M) | n (R157). -/
def assemblePattern (s : Bool) (ef n E M : Nat) : Word64 :=
  BitVec.ofNat 64 ((if s then 2 ^ (totalBits E M - 1) else 0) ||| (ef <<< M) ||| n)

/-- INFPAT: all-ones exponent, zero mantissa, the value's sign (R151, R158). -/
def infPattern (s : Bool) (E M : Nat) : Word64 := assemblePattern s (emask E) 0 E M

/-- The pattern of every NaN: sign 0, all-ones exponent, the mantissa's top bit set where there is one (R152). -/
def nanPattern (E M : Nat) : Word64 := assemblePattern false (emask E) (if 0 < M then 2 ^ (M - 1) else 0) E M

/-- The exponent field and the rounded n = rhaz(f · 2^M) of a finite nonzero operand of magnitude m · 2^t, before the
carry; none when exp > max_exp (R153 to R155, R159).
On the subnormal path f · 2^M = m · 2^t · 2^(M - min_exp). On the normal path, with 2^exp ≤ m · 2^t, f · 2^M is
(m - 2^log2 m) · 2^(M - log2 m). -/
def encFields (m : Nat) (t : Int) (E M : Nat) : Option (Nat × Nat) :=
  let exp := ilog2 m t
  if maxExp E < exp then none
  else if exp < minExp E then some (0, rhaz m (t - minExp E + M))
  else some ((exp + bias E).toNat, rhaz (m - 2 ^ Nat.log2 m) ((M : Int) - Nat.log2 m))

/-- The carry of the rounding into the exponent field (R156). -/
def carryFields (M : Nat) (f : Nat × Nat) : Nat × Nat := if f.2 = 2 ^ M then (f.1 + 1, 0) else f

/-- ENC_CORE(v, E, M) for a layout of 1 ≤ E and 1 + E + M ≤ 64 (R151). -/
def encCore (v : Word64) (E M : Nat) : Word64 :=
  let s := f64Sign v
  if f64IsNaN v then nanPattern E M
  else if f64IsInf v then infPattern s E M
  else if f64IsZero v then assemblePattern s 0 0 E M
  else
    match encFields (f64Sig v) (f64Exp v) E M with
    | none => infPattern s E M
    | some f => assemblePattern s (carryFields M f).1 (carryFields M f).2 E M

/-- The reference program's encode, which has no carry: n = 2^M is ORed into the exponent field (I1, REF_CARRY). It is
for comparison alone; the unit is `encCore` (92_eei_decisions.md D13).
DESIGN CHOICE (log entry 12, safe): its other steps are taken to be the unit's exact ones. -/
def refEncodeWithoutCarry (v : Word64) (E M : Nat) : Word64 :=
  let s := f64Sign v
  if f64IsNaN v then nanPattern E M
  else if f64IsInf v then infPattern s E M
  else if f64IsZero v then assemblePattern s 0 0 E M
  else
    match encFields (f64Sig v) (f64Exp v) E M with
    | none => infPattern s E M
    | some f => assemblePattern s f.1 f.2 E M

end Sys2Proof.Machine
end

