-- ==== Sys2Proof/Machine/Flags.lean ====
section
/-! DEFINITION. The numeric codes of the status-like registers, as the output ports carry them (10_state.md R28,
R30, R31), and the status of a pending parse error (60_exceptions.md R180). -/

namespace Sys2Proof.Machine

/-- The 3-bit code of STATUS (R30, R180). -/
def Status.code : Status → BitVec 3
  | .ok => 0#3
  | .errHex => 1#3
  | .errBin => 2#3
  | .errFloat => 3#3
  | .errWidth => 4#3
  | .errLayout => 5#3
  | .errCmd => 6#3

/-- The 2-bit code of CLASS (R31). -/
def DecClass.code : DecClass → BitVec 2
  | .noResult => 0#2
  | .number => 1#2
  | .inf => 2#2
  | .nan => 3#2

/-- The 1-bit code of SRCB (R28). -/
def parseBaseCode : ParseBase → BitVec 1
  | .hex => 0#1
  | .bin => 1#1

/-- The status a re-decode reports while a parse error of this base is pending (R123, R180). -/
def parseErrorStatus : ParseBase → Status
  | .hex => .errHex
  | .bin => .errBin

end Sys2Proof.Machine
end

