-- ==== Sys2Proof/Machine/Ops.lean ====
section
/-! DEFINITION. The shared operations over the registers: writing the layout, the source and the results, raising an
error (60_exceptions.md R181, R182; the unit has no trap and no return from one, R185, R186), REDECODE (41_decode.md
R123) and the reset (70_reset_and_hazards.md R200). -/

namespace Sys2Proof.Machine

/-- The result registers but STATUS (10_state.md R29). -/
def State.results (s : State) : Decoded :=
  { cls := s.cls, sign := s.sign, value := s.value, sig := s.sig, exp2 := s.exp2, pba := s.pba }

/-- Write CLASS, SIGN, VALUE, SIG, EXP2 and PBA together (R29). -/
def State.setResults (d : Decoded) (s : State) : State :=
  { s with cls := d.cls, sign := d.sign, value := d.value, sig := d.sig, exp2 := d.exp2, pba := d.pba }

/-- Write STATUS alone. -/
def State.setStatus (code : Status) (s : State) : State := { s with status := code }

/-- Write BITS and SRCV: a new source (R26, R27). -/
def State.setSource (b : Word64) (valid : Bool) (s : State) : State := { s with bits := b, srcv := valid }

/-- Write BITS alone (R122). -/
def State.setBits (b : Word64) (s : State) : State := { s with bits := b }

/-- Write SRCB alone (R28). -/
def State.setBase (base : ParseBase) (s : State) : State := { s with srcb := base }

/-- Write FMT alone (R23). -/
def State.setFmt (tag : BitVec 4) (s : State) : State := { s with fmt := tag }

/-- Write LAY_E and LAY_M (R24). -/
def State.setLayout (e m : BitVec 6) (s : State) : State := { s with layE := e, layM := m }

/-- Raise an error that is not decode-side, ERR_FLOAT, ERR_LAYOUT or ERR_CMD: STATUS and nothing else (R182). -/
def raiseStatusOnly (code : Status) (s : State) : State := s.setStatus code

/-- Raise a decode-side error, ERR_WIDTH, ERR_HEX or ERR_BIN: STATUS, and the result registers cleared (R181). -/
def raiseDecodeSide (code : Status) (s : State) : State := (s.setResults clearedResult).setStatus code

/-- REDECODE(), the procedure that ends SETFMT, SETLAY, DECODE, ENCODE and DECERR (R122 to R124). -/
def redecode (s : State) : State :=
  if s.wide then raiseDecodeSide .errWidth s
  else if s.srcv then
    let s1 := s.setBits (s.bits &&& lowmask s.total)
    (s1.setResults (decCore s1.bits s1.widthE s1.widthM)).setStatus .ok
  else raiseDecodeSide (parseErrorStatus s.srcb) s

/-- Every register at its reset value, the command in flight discarded (R200). P_LAT is a parameter and the host's
coming inputs are no register: both stay. -/
def applyReset (s : State) : State := { State.reset with pLatPred := s.pLatPred, pins := s.pins }

end Sys2Proof.Machine
end

