-- ==== Sys2Proof/Machine/DecodeCommands.lean ====
section
/-! DEFINITION. The decode commands: DECODE, DECERR (41_decode.md). -/

namespace Sys2Proof.Machine

/-- DECODE: the masked pattern becomes the source and is decoded (R126). -/
def execDecode (b : Word64) (s : State) : Host.Outcome State Fault Refusal :=
  .next (redecode (s.setSource (b &&& lowmask s.total) true))

/-- DECERR: the source becomes a failed parse of the given base, reported at once (R128). -/
def execDecerr (base : ParseBase) (s : State) : Host.Outcome State Fault Refusal :=
  .next (redecode ((s.setBase base).setSource 0#64 false))

end Sys2Proof.Machine
end

