-- ==== Sys2Proof/Machine/EncodeCommands.lean ====
section
/-! DEFINITION. The encode commands: ENCODE, ENCERR (42_encode.md). -/

namespace Sys2Proof.Machine

/-- ENCODE: under a narrow layout the encoded pattern becomes the source; then a re-decode, which refuses a wide
layout (R160). -/
def execEncode (v : Word64) (s : State) : Host.Outcome State Fault Refusal :=
  if s.wide then .next (redecode s)
  else .next (redecode (s.setSource (encCore v s.widthE s.widthM) true))

/-- ENCERR: STATUS is ERR_FLOAT and nothing else changes, under a wide layout too (R163). -/
def execEncerr (s : State) : Host.Outcome State Fault Refusal := .next (raiseStatusOnly .errFloat s)

end Sys2Proof.Machine
end

