-- ==== Sys2Proof/Machine/Registry.lean ====
section
/-! DEFINITION. The layout and format registry commands: NOP, SETFMT, SETLAY (40_layout.md). -/

namespace Sys2Proof.Machine

/-- NOP writes nothing, STATUS included (R100). -/
def execNop (s : State) : Host.Outcome State Fault Refusal := .next s

/-- The layout SETFMT leaves: the preset's widths, or for Custom the last active ones (R104). -/
def State.usePreset (tag : BitVec 4) (s : State) : State :=
  match preset tag with
  | some (e, m) => s.setLayout e m
  | none => s

/-- SETFMT TAG: refused with ERR_CMD for a tag above 8, else the format, its layout and a re-decode (R104). -/
def execSetfmt (tag : BitVec 4) (s : State) : Host.Outcome State Fault Refusal :=
  if 8 < tag.toNat then .next (raiseStatusOnly .errCmd s)
  else .next (redecode ((s.setFmt tag).usePreset tag))

/-- SETLAY LE, LM: refused with ERR_LAYOUT unless Custom is active and LE is not 0, else the widths and a re-decode
(R106, R107). -/
def execSetlay (le lm : BitVec 6) (s : State) : Host.Outcome State Fault Refusal :=
  if s.fmt ≠ customTag ∨ le = 0#6 then .next (raiseStatusOnly .errLayout s)
  else .next (redecode (s.setLayout le lm))

end Sys2Proof.Machine
end

