-- ==== Sys2Proof/Machine/Dispatch.lean ====
section
/-! DEFINITION. One arm per command: each calls its meaning. -/

namespace Sys2Proof.Machine

def exec (i : Instr) (s : State) : Host.Outcome State Fault Refusal :=
  match i with
  | .nop => Sys2Proof.Machine.execNop s
  | .setfmt tag => Sys2Proof.Machine.execSetfmt tag s
  | .setlay le lm => Sys2Proof.Machine.execSetlay le lm s
  | .decode b => Sys2Proof.Machine.execDecode b s
  | .encode v => Sys2Proof.Machine.execEncode v s
  | .decerr base => Sys2Proof.Machine.execDecerr base s
  | .encerr => Sys2Proof.Machine.execEncerr s

end Sys2Proof.Machine
end

