-- ==== Sys2Proof/Machine/Illegal.lean ====
section
/-! DEFINITION. The illegal command: a word the decoder rejects (60_exceptions.md R183). -/

namespace Sys2Proof.Machine

/-- An illegal command word executes as ERR_CMD and changes nothing else (R183). -/
def execIllegal (s : State) : Host.Outcome State Fault Refusal := .next (raiseStatusOnly .errCmd s)

end Sys2Proof.Machine
end

