-- ==== Sys2Proof/Machine/Handshake.lean ====
section
/-! DEFINITION. One rising edge of clk: reset, acceptance of a command on the valid/ready port, the command in flight
and its commit (70_reset_and_hazards.md R200 to R205), and a run of many edges. -/

namespace Sys2Proof.Machine

/-- P_LAT, the latency of every command (00_scope.md R10). -/
def State.pLat (s : State) : Nat := s.pLatPred + 1

/-- An edge at which the host presents nothing: rst = 0, cmd_valid = 0. -/
def idlePins : Pins := { rst := false, cmdValid := false, cmdWord := 0#32, cmdData := 0#64 }

/-- An edge at which the host presents a command (10_state.md R47). -/
def presentPins (c : Command) : Pins := { rst := false, cmdValid := true, cmdWord := c.word, cmdData := c.data }

/-- The command the pins carry. -/
def Pins.command (p : Pins) : Command := { word := p.cmdWord, data := p.cmdData }

/-- Run a command word: decode it and execute it, an illegal word by R183 (30_encoding.md R89). -/
def runCommand (c : Command) (s : State) : Host.Outcome State Fault Refusal :=
  match decodeCommand c with
  | .ok i => exec i s
  | .error _ => execIllegal s

/-- The commit edge: the unit is ready again and all writes of the command in flight take effect (R204). -/
def commit (s : State) : Host.Outcome State Fault Refusal :=
  runCommand s.cmdq { s with busy := false, edgesLeft := 0 }

/-- The accepting edge k: the command is latched, and commits at edge k + P_LAT - 1, which is this edge when
P_LAT = 1 (R203, R204). -/
def accept (c : Command) (s : State) : Host.Outcome State Fault Refusal :=
  match s.pLatPred with
  | 0 => commit { s with cmdq := c }
  | n + 1 => .next { s with cmdq := c, busy := true, edgesLeft := n + 1 }

/-- One rising edge of clk with the given pins. rst wins over everything (R200); a command in flight makes cmd_ready
0, so the command port is ignored (R203). -/
def edge (p : Pins) (s : State) : Host.Outcome State Fault Refusal :=
  if p.rst then .next (applyReset s)
  else if s.busy then
    if s.edgesLeft ≤ 1 then commit s else .next { s with edgesLeft := s.edgesLeft - 1 }
  else if p.cmdValid then accept p.command s
  else .next s

/-- The pins at the coming edge: the head of the list, or nothing presented past its end (log entry 1). -/
def State.nextPins (s : State) : Pins :=
  match s.pins with
  | [] => idlePins
  | p :: _ => p

/-- The state with the coming edge's pins taken from the list. -/
def State.takePins (s : State) : State := { s with pins := s.pins.tail }

/-- The state in which the very next edge runs `c`: presented on the ready port when P_LAT = 1, in flight with its
commit edge next when P_LAT is larger, with no reset at that edge (log entry 5). -/
def placeCommand (c : Command) (s : State) : State :=
  match s.pLatPred with
  | 0 => { s with busy := false, pins := presentPins c :: s.pins }
  | _ + 1 => { s with busy := true, cmdq := c, edgesLeft := 1, pins := idlePins :: s.pins }

end Sys2Proof.Machine
end

