-- ==== Sys2Proof/Machine/Step.lean ====
section
/-! DEFINITION. The step of the machine: one rising edge of clk. -/

namespace Sys2Proof.Machine

/-- One rising edge of clk, with the pins the host drives at it (10_state.md R46, R47; log entry 1). -/
def step (s : State) : Host.Outcome State Fault Refusal := edge s.nextPins s.takePins

/-- `s` with the instruction whose bits are `w` placed so that the next step runs it (log entry 5). -/
def State.withFetchWord (s : State) (nbits w : Nat) : State := placeCommand (commandOfBits nbits w) s

/-- `n` rising edges. -/
def runEdges : Nat → State → Host.Outcome State Fault Refusal
  | 0, s => .next s
  | n + 1, s =>
    match step s with
    | .next t => runEdges n t
    | .fault r => .fault r
    | .refused r => .refused r

end Sys2Proof.Machine
end

