-- ==== Sys2Proof/Machine/Ports.lean ====
section
/-! DEFINITION. The output ports (10_state.md R43 to R45, R47 to R49) and the host's choice of what to show for them
(41_decode.md R133). -/

namespace Sys2Proof.Machine

/-- A 1-bit port. -/
def bitPort (b : Bool) : BitVec 1 := BitVec.ofBool b

/-- The region code of index i of the per-bit array: 1 sign, 2 exponent, 3 mantissa, 0 none (R45). -/
def regionCode (E M i : Nat) : Nat :=
  if i = 0 then 1 else if i ≤ E then 2 else if i ≤ E + M then 3 else 0

/-- The region codes of indexes 0 to n-1, index i at bits 2i+1:2i (R45). -/
def regionUpTo (E M : Nat) : Nat → Nat
  | 0 => 0
  | n + 1 => regionUpTo E M n + regionCode E M n * 4 ^ n

/-- o_region, 128 bits, defined under a wide layout too (R45). -/
def regionPort (E M : Nat) : BitVec 128 := BitVec.ofNat 128 (regionUpTo E M 64)

/-- The output ports (R47 to R49). -/
structure Outputs where
  cmdReady : BitVec 1
  oFmt : BitVec 4
  oLayE : BitVec 6
  oLayM : BitVec 6
  oBits : BitVec 64
  oSrcv : BitVec 1
  oSrcb : BitVec 1
  oStatus : BitVec 3
  oClass : BitVec 2
  oSign : BitVec 1
  oValue : BitVec 64
  oSig : BitVec 64
  oExp2 : BitVec 64
  oPba : BitVec 64
  oTotal : BitVec 7
  oWide : BitVec 1
  oBias : BitVec 64
  oRegion : BitVec 128
  deriving DecidableEq, Repr

/-- The output ports in a state: each register drives its port at all times (R48), and the derived ports follow the
layout registers (R49). Reading one is no step and changes nothing (20_memory.md R69). -/
def outputs (s : State) : Outputs where
  cmdReady := bitPort (!s.busy)
  oFmt := s.fmt
  oLayE := s.layE
  oLayM := s.layM
  oBits := s.bits
  oSrcv := bitPort s.srcv
  oSrcb := parseBaseCode s.srcb
  oStatus := s.status.code
  oClass := s.cls.code
  oSign := bitPort s.sign
  oValue := s.value
  oSig := s.sig
  oExp2 := s.exp2
  oPba := s.pba
  oTotal := BitVec.ofNat 7 s.total
  oWide := bitPort s.wide
  oBias := BitVec.ofNat 64 (bias s.widthE)
  oRegion := regionPort s.widthE s.widthM

/-- What a host shows for the unit's registers: a message, or a number it formats itself (R133). -/
inductive Shown where
  | text (message : String)
  /-- The host formats this binary64 pattern; the decimal string is outside the unit (00_scope.md R6). -/
  | number (value : Word64)
  deriving DecidableEq, Repr

/-- What the host shows for a class and sign when STATUS is OK (R133).
DESIGN CHOICE (log entry 14, safe): R133 gives no row for STATUS OK with CLASS NONE, which no run reaches. -/
def shownResult (s : State) : Shown :=
  match s.cls with
  | .noResult => .text ""
  | .number => .number s.value
  | .inf => if s.sign then .text "-inf" else .text "inf"
  | .nan => .text "NaN"

/-- What the host shows: a message when STATUS is not OK, else the result (R133). -/
def shown (s : State) : Shown :=
  match s.status with
  | .ok => shownResult s
  | .errHex => .text "Invalid hex input"
  | .errBin => .text "Invalid binary input"
  | .errFloat => .text "Invalid float input"
  | .errWidth => .text "Total bits > 64 not supported"
  | .errLayout => .text "Layout not editable"
  | .errCmd => .text "Illegal command"

end Sys2Proof.Machine
end

