-- ==== Sys2Proof/Safety.lean ====
section
/-! DEFINITION. The terms claims about FPCODEC are stated in: the exact values of patterns, what a re-decode leaves,
which states a run can hold, the status each command leaves, and commands applied in order. -/

namespace Sys2Proof.Machine

/-! ## Exact values -/

/-- The layouts DEC_CORE and ENC_CORE are defined for (41_decode.md R121, 42_encode.md R151). -/
def LegalLayout (E M : Nat) : Prop := 1 ≤ E ∧ totalBits E M ≤ 64

/-- m · 2^t as a rational. -/
def scaled (m : Nat) (t : Int) : ℚ := (m : ℚ) * (2 : ℚ) ^ t

/-- x with the sign of a sign bit. -/
def withSign (s : Bool) (x : ℚ) : ℚ := if s then -x else x

/-- The exact value of a NUMBER result, SIG · 2^EXP2 with its sign (10_state.md R34, R35). -/
def Decoded.exactValue (d : Decoded) : ℚ := withSign d.sign (scaled d.sig.toNat d.exp2.toInt)

/-- v is neither an infinity nor a NaN (00_scope.md R17). -/
def F64Finite (v : Word64) : Prop := f64Ev v ≠ 2047

/-- The exact value of a finite binary64 word (00_scope.md R17). -/
def f64Value (v : Word64) : ℚ := withSign (f64Sign v) (scaled (f64Sig v) (f64Exp v))

/-- The infinity of a sign. -/
def f64Infinity (s : Bool) : Word64 := if s then f64NInf else f64PInf

/-- SIG of the largest finite value of a layout. -/
def largestSig (E M : Nat) : Nat := if E = 1 then 2 ^ M - 1 else 2 ^ (M + 1) - 1

/-- EXP2 of the largest finite value of a layout. -/
def largestExp2 (E M : Nat) : Int := if E = 1 then 1 - (M : Int) else maxExp E - M

/-- Half a spacing past the largest finite value: from here on rounding half away from zero passes it
(42_encode.md R154, R156, R165). -/
def overflowThreshold (E M : Nat) : ℚ := ((largestSig E M : ℚ) + 1 / 2) * (2 : ℚ) ^ largestExp2 E M

/-! ## What a re-decode leaves (41_decode.md R122 to R124, 60_exceptions.md R181) -/

/-- `t` is what REDECODE leaves of `s` (41_decode.md R123). -/
structure Redecoded (s t : State) : Prop where
  /-- Nothing but BITS, STATUS and the result registers changes. -/
  frame : t = { s with bits := t.bits, status := t.status, cls := t.cls, sign := t.sign, value := t.value,
                       sig := t.sig, exp2 := t.exp2, pba := t.pba }
  /-- A wide layout: ERR_WIDTH, results cleared, BITS kept (R124, R181). -/
  wide : 64 < s.total → t.status = .errWidth ∧ t.results = clearedResult ∧ t.bits = s.bits
  /-- A pending parse error: reported again, results cleared, BITS kept (R123, R181). -/
  pending : s.total ≤ 64 → s.srcv = false →
    t.status = parseErrorStatus s.srcb ∧ t.results = clearedResult ∧ t.bits = s.bits
  /-- Otherwise BITS is masked and decoded, and STATUS is OK (R122, R123). -/
  decoded : s.total ≤ 64 → s.srcv = true →
    t.bits = s.bits &&& lowmask s.total ∧ t.status = .ok ∧ t.results = decCore t.bits s.widthE s.widthM

/-! ## The status of a command (60_exceptions.md R184) -/

/-- The status a re-decode under `total` bits leaves: ERR_WIDTH first, then a pending parse error, then OK. -/
def redecodeStatus (total : Nat) (srcv : Bool) (srcb : ParseBase) : Status :=
  if 64 < total then .errWidth else if srcv then .ok else parseErrorStatus srcb

/-- The status each command leaves, in the order of precedence of R184. A preset's layout is narrow, so only SETFMT
custom can report ERR_WIDTH (40_layout.md R104). -/
def statusAfter (i : Instr) (s : State) : Status :=
  match i with
  | .nop => s.status
  | .setfmt tag =>
    if 8 < tag.toNat then .errCmd
    else if tag = 8#4 then redecodeStatus s.total s.srcv s.srcb
    else if s.srcv then .ok else parseErrorStatus s.srcb
  | .setlay le lm =>
    if s.fmt ≠ 8#4 ∨ le = 0#6 then .errLayout
    else redecodeStatus (1 + le.toNat + lm.toNat) s.srcv s.srcb
  | .decode _ => if 64 < s.total then .errWidth else .ok
  | .encode _ => if 64 < s.total then .errWidth else .ok
  | .decerr base => if 64 < s.total then .errWidth else parseErrorStatus base
  | .encerr => .errFloat

/-! ## The states of a run -/

/-- The results agree with the layout and the source, `st` being the status of the last re-decode
(70_reset_and_hazards.md R209). -/
def ConsistentAt (st : Status) (s : State) : Prop :=
  (s.total ≤ 64 ∧ s.srcv = true ∧ st = .ok ∧ s.results = decCore s.bits s.widthE s.widthM) ∨
  (64 < s.total ∧ st = .errWidth ∧ s.results = clearedResult) ∨
  (s.total ≤ 64 ∧ s.srcv = false ∧ st = parseErrorStatus s.srcb ∧ s.results = clearedResult)

/-- The consistency of R209: with STATUS itself, or after ERR_FLOAT, ERR_LAYOUT or ERR_CMD with the status of the last
re-decode. -/
def Consistent (s : State) : Prop :=
  ConsistentAt s.status s ∨
  ((s.status = .errFloat ∨ s.status = .errLayout ∨ s.status = .errCmd) ∧ ∃ st, ConsistentAt st s)

/-- What every state of a run from reset meets. -/
structure Inv (s : State) : Prop where
  /-- FMT is 0 to 8 (10_state.md R23). -/
  fmtLegal : s.fmt.toNat ≤ 8
  /-- LAY_E is never 0 (10_state.md R24, 40_layout.md R108). -/
  layEPositive : s.layE ≠ 0#6
  /-- Under a preset the layout is the preset's (10_state.md R25, 40_layout.md R108). -/
  presetLayout : ∀ e m, preset s.fmt = some (e, m) → s.layE = e ∧ s.layM = m
  /-- Under a narrow layout BITS has no bit above total-1 (10_state.md R26). -/
  bitsFit : s.total ≤ 64 → s.bits.toNat < 2 ^ s.total
  /-- While a parse error is pending BITS is 0 (41_decode.md R128). -/
  pendingBits : s.srcv = false → s.bits = 0#64
  /-- The results agree with the layout and the source (70_reset_and_hazards.md R209). -/
  consistent : Consistent s
  /-- A command in flight commits within P_LAT - 1 edges (70_reset_and_hazards.md R204). -/
  inFlight : s.busy = true → 1 ≤ s.edgesLeft ∧ s.edgesLeft ≤ s.pLatPred

/-! ## Commands in order (20_memory.md R70) -/

/-- Commands applied one after another, each by its own rule, with no time. -/
def applyCommands : List Command → State → Host.Outcome State Fault Refusal
  | [], s => .next s
  | c :: cs, s =>
    match runCommand c s with
    | .next t => applyCommands cs t
    | .fault r => .fault r
    | .refused r => .refused r

/-- What a host drives around one command: any number of ready edges at which it presents nothing, the edge at which
it presents the command, and the P_LAT - 1 edges after it, at which the unit is busy. -/
structure Presented where
  gap : List Pins
  command : Command
  busyPins : List Pins
  deriving DecidableEq, Repr

/-- Edges at which the host presents nothing and asserts no reset. -/
def Quiet (ps : List Pins) : Prop := ∀ p ∈ ps, p.rst = false ∧ p.cmdValid = false

/-- Edges at which the host drives anything but reset. -/
def NoReset (ps : List Pins) : Prop := ∀ p ∈ ps, p.rst = false

/-- The gap is quiet, and the host drives anything but reset at the P_LAT - 1 busy edges. -/
def Presented.Fits (x : Presented) (pLat : Nat) : Prop :=
  Quiet x.gap ∧ NoReset x.busyPins ∧ x.busyPins.length = pLat - 1

/-- The pins of a host that presents commands one after another, with gaps between them. Every sequence of pins
without reset that ends at a ready edge has this form. -/
def schedule (xs : List Presented) : List Pins := xs.flatMap fun x => x.gap ++ presentPins x.command :: x.busyPins

/-- `t` is `s` but for CMDQ and the count of edges, which the spec leaves open while BUSY = 0 (10_state.md R37,
93_implementation_defined.md U2; log entries 3 and 4). -/
def SameButQueue (s t : State) : Prop := { s with cmdq := t.cmdq, edgesLeft := t.edgesLeft } = t

end Sys2Proof.Machine
end

