-- ==== Sys2Proof/Certificates/Slice0/Obligations.lean ====
section
/-! DEFINITION. The statements about FPCODEC for the provers. -/

open Sys2Proof Sys2Proof.Machine

/-! ## Reset -/

/-- R51: the reset values of all state. CMDQ is unspecified and never read: whatever it holds, the edge after reset
shows the same outputs. -/
def Obligations.ResetStateHoldsTheSpecValues : Prop :=
  State.reset.fmt = 0#4 ∧ State.reset.layE = 8#6 ∧ State.reset.layM = 23#6 ∧ State.reset.bits = 0#64 ∧
  State.reset.srcv = true ∧ State.reset.srcb = .hex ∧ State.reset.status = .ok ∧ State.reset.cls = .number ∧
  State.reset.sign = false ∧ State.reset.value = 0x0000000000000000#64 ∧ State.reset.sig = 0#64 ∧
  State.reset.exp2 = BitVec.ofInt 64 (-149) ∧ State.reset.exp2 = 0xFFFFFFFFFFFFFF6B#64 ∧
  State.reset.pba = 0#64 ∧ State.reset.busy = false ∧
  ∀ (c : Command) (p : Pins), ∃ t u, edge p State.reset = .next t ∧ edge p { State.reset with cmdq := c } = .next u ∧
    outputs t = outputs u

/-- 10_state.md R52 (derived in the spec): the result registers at reset are the decode of BITS = 0 under (8, 23). -/
def Obligations.ResetResultsAreTheDecodeOfZero : Prop :=
  State.reset.results = decCore 0#64 8 23 ∧ State.reset.status = .ok ∧ (decCore 0#64 8 23).exp2.toInt = 1 - 127 - 23

/-- R200: an edge with rst = 1 gives every register its reset value, whatever it held and whatever command is presented
or in flight. It holds of every state, so of the unknown state before the first reset too (R201). -/
def Obligations.ResetEdgeGivesTheResetValues : Prop :=
  ∀ s : State, s.nextPins.rst = true →
    ∃ t, step s = .next t ∧
      t.fmt = 0#4 ∧ t.layE = 8#6 ∧ t.layM = 23#6 ∧ t.bits = 0#64 ∧ t.srcv = true ∧ t.srcb = .hex ∧ t.status = .ok ∧
      t.cls = .number ∧ t.sign = false ∧ t.value = 0#64 ∧ t.sig = 0#64 ∧ t.exp2 = BitVec.ofInt 64 (-149) ∧
      t.pba = 0#64 ∧ t.busy = false

/-! ## The handshake -/

/-- A command word that decodes to `i` runs as exec of `i`, at its accepting edge when P_LAT = 1 and at its commit edge
when P_LAT is larger; a word the decoder rejects writes ERR_CMD alone at the same two edges. What the edge adds around
it: the pins are taken and the unit is ready. That CMDQ then holds the command and the count of edges is 0 is the
model's choice, log entries 3 and 4. -/
def Obligations.StepRunsTheDecodedCommand : Prop :=
  (∀ (s : State) (p : Pins) (ps : List Pins) (i : Instr), s.pins = p :: ps → p.rst = false → p.cmdValid = true →
    s.busy = false → s.pLatPred = 0 → decodeCommand { word := p.cmdWord, data := p.cmdData } = .ok i →
    step s = exec i { s with pins := ps, busy := false, edgesLeft := 0,
                             cmdq := { word := p.cmdWord, data := p.cmdData } }) ∧
  (∀ (s : State) (p : Pins) (ps : List Pins) (r : DecodeReject), s.pins = p :: ps → p.rst = false →
    p.cmdValid = true → s.busy = false → s.pLatPred = 0 →
    decodeCommand { word := p.cmdWord, data := p.cmdData } = .error r →
    step s = .next { s with pins := ps, busy := false, edgesLeft := 0, status := .errCmd,
                            cmdq := { word := p.cmdWord, data := p.cmdData } }) ∧
  (∀ (s : State) (i : Instr), s.nextPins.rst = false → s.busy = true → s.edgesLeft ≤ 1 → decodeCommand s.cmdq = .ok i →
    step s = exec i { s with pins := s.pins.tail, busy := false, edgesLeft := 0 }) ∧
  (∀ (s : State) (r : DecodeReject), s.nextPins.rst = false → s.busy = true → s.edgesLeft ≤ 1 →
    decodeCommand s.cmdq = .error r →
    step s = .next { s with pins := s.pins.tail, busy := false, edgesLeft := 0, status := .errCmd })

/-- The model's convention of log entry 5: with the word of an instruction placed by withFetchWord, the next step runs
it, for every P_LAT and in every state, and shows what exec of it on that state shows. -/
def Obligations.PlacedWordRunsAtTheNextStep : Prop :=
  ∀ (s : State) (nbits w : Nat) (i : Instr), decodeTableWord nbits w = some i →
    ∃ t u, step (s.withFetchWord nbits w) = .next t ∧ exec i { s with busy := false } = .next u ∧ outputs t = outputs u

/-- R203: a command is accepted at an edge with rst = 0, cmd_valid = 1 and cmd_ready = 1, and at no other. Accepted with
P_LAT of at least 2, it is sampled into CMDQ and in flight from just after the edge; with P_LAT = 1 it is the sampled
words that run at that edge. With rst = 1 nothing is accepted: two hosts that drive different commands, or none, get the
same step, and no command is in flight after it. Without cmd_valid the pins are taken and nothing else happens. While
cmd_ready = 0 the port is ignored and nothing is sampled. What CMDQ holds after an edge that leaves the unit ready is
left open, as U2 leaves it: SameButQueue leaves CMDQ and the count of edges out. -/
def Obligations.AcceptanceNeedsValidAndReady : Prop :=
  (∀ (s : State) (p : Pins) (ps : List Pins), s.pins = p :: ps → p.rst = false → p.cmdValid = true → s.busy = false →
    2 ≤ s.pLat →
    ∃ t, step s = .next t ∧ t.busy = true ∧ t.cmdq = { word := p.cmdWord, data := p.cmdData } ∧
      SameButQueue { s with pins := ps, busy := true } t) ∧
  (∀ (s : State) (p : Pins) (ps : List Pins), s.pins = p :: ps → p.rst = false → p.cmdValid = true → s.busy = false →
    s.pLat = 1 →
    ∃ t u, step s = .next t ∧ runCommand { word := p.cmdWord, data := p.cmdData } { s with pins := ps } = .next u ∧
      SameButQueue u t) ∧
  (∀ (s : State) (p q : Pins) (ps : List Pins), p.rst = true → q.rst = true →
    ∃ t u, step { s with pins := p :: ps } = .next t ∧ step { s with pins := q :: ps } = .next u ∧
      t.busy = false ∧ SameButQueue t u) ∧
  (∀ (s : State) (p : Pins) (ps : List Pins), s.pins = p :: ps → p.rst = false → p.cmdValid = false → s.busy = false →
    ∃ t, step s = .next t ∧ SameButQueue { s with pins := ps } t) ∧
  (∀ (s : State) (p q : Pins) (ps : List Pins), p.rst = false → q.rst = false → s.busy = true →
    ∃ t u, step { s with pins := p :: ps } = .next t ∧ step { s with pins := q :: ps } = .next u ∧ SameButQueue t u ∧
      (t.busy = true → t = u ∧ t.cmdq = s.cmdq))

/-- R204: a command accepted at edge k commits at edge k + P_LAT - 1. At the edges before it (the j-th edge from k on,
1 ≤ j ≤ P_LAT - 1) BUSY is 1, cmd_ready is 0 and every other output is as before the command; the commit edge applies
the whole command to the registers as they were, and leaves cmd_ready 1. `q` is what the host drives in between,
anything but reset. SameButQueue leaves CMDQ and the count of edges out, which the spec leaves open while BUSY = 0. -/
def Obligations.CommandCommitsAfterPLatEdges : Prop :=
  ∀ (s : State) (c : Command) (q ps : List Pins), s.busy = false → s.pins = presentPins c :: (q ++ ps) →
    q.length = s.pLat - 1 → NoReset q →
    (∀ j, 1 ≤ j → j ≤ s.pLat - 1 →
      ∃ t, runEdges j s = .next t ∧ t.busy = true ∧ outputs t = { outputs s with cmdReady := 0#1 }) ∧
    ∃ t u, runEdges s.pLat s = .next t ∧ runCommand c { s with pins := ps } = .next u ∧ SameButQueue u t ∧
      (outputs t).cmdReady = 1#1

/-- The model's choice of log entries 3 and 4: while BUSY = 0 CMDQ keeps the last accepted command and the count of edges
is 0 from its commit on. The commit of a command leaves exactly the command's own effect on the state with its words in
CMDQ; an edge at which nothing is presented, and a commit edge, leave CMDQ as it was. -/
def Obligations.QueueKeepsTheLastCommandWhileReady : Prop :=
  (∀ (s : State) (c : Command) (q ps : List Pins), s.busy = false → s.pins = presentPins c :: (q ++ ps) →
    q.length = s.pLat - 1 → NoReset q →
    runEdges s.pLat s = runCommand c { s with cmdq := c, pins := ps, edgesLeft := 0 }) ∧
  (∀ s : State, s.nextPins.rst = false → s.nextPins.cmdValid = false → s.busy = false →
    step s = .next { s with pins := s.pins.tail }) ∧
  (∀ s : State, s.nextPins.rst = false → s.busy = true → ∃ t, step s = .next t ∧ t.cmdq = s.cmdq)

/-- R70: whatever the host drives while the unit is busy, and with any ready edges at which it presents nothing before,
between and after the commands, after k commands have committed the outputs are those of applying commands 1 to k in
order, with no time, to the state the run began in. It holds for every P_LAT and from every ready state, the reset
state among them. -/
def Obligations.CommandsTakeEffectInAcceptanceOrder : Prop :=
  ∀ (s : State) (xs : List Presented) (gap ps : List Pins), s.busy = false → (∀ x ∈ xs, x.Fits s.pLat) → Quiet gap →
    s.pins = schedule xs ++ (gap ++ ps) →
    ∃ t u, runEdges (schedule xs ++ gap).length s = .next t ∧
      applyCommands (xs.map Presented.command) s = .next u ∧ outputs t = outputs u ∧ t.pins = ps

/-- 10_state.md R48: the register outputs drive the registers at all times, with the codes of R28, R30, R31 and
60_exceptions.md R180, cmd_ready is NOT BUSY (R37, R47), and a register output changes only at a commit edge or a reset
edge. -/
def Obligations.OutputsChangeOnlyAtCommitOrReset : Prop :=
  (∀ s : State, (outputs s).oFmt = s.fmt ∧ (outputs s).oLayE = s.layE ∧ (outputs s).oLayM = s.layM ∧
    (outputs s).oBits = s.bits ∧ (outputs s).oSrcv = (if s.srcv then 1#1 else 0#1) ∧
    (outputs s).oSrcb = (if s.srcb = .bin then 1#1 else 0#1) ∧ (outputs s).oSign = (if s.sign then 1#1 else 0#1) ∧
    (outputs s).oValue = s.value ∧ (outputs s).oSig = s.sig ∧ (outputs s).oExp2 = s.exp2 ∧ (outputs s).oPba = s.pba) ∧
  (∀ s : State,
    (s.status = .ok → (outputs s).oStatus = 0#3) ∧ (s.status = .errHex → (outputs s).oStatus = 1#3) ∧
    (s.status = .errBin → (outputs s).oStatus = 2#3) ∧ (s.status = .errFloat → (outputs s).oStatus = 3#3) ∧
    (s.status = .errWidth → (outputs s).oStatus = 4#3) ∧ (s.status = .errLayout → (outputs s).oStatus = 5#3) ∧
    (s.status = .errCmd → (outputs s).oStatus = 6#3)) ∧
  (∀ s : State,
    (s.cls = .noResult → (outputs s).oClass = 0#2) ∧ (s.cls = .number → (outputs s).oClass = 1#2) ∧
    (s.cls = .inf → (outputs s).oClass = 2#2) ∧ (s.cls = .nan → (outputs s).oClass = 3#2)) ∧
  (∀ s : State, (outputs s).cmdReady = (if s.busy then 0#1 else 1#1)) ∧
  (∀ s : State, s.nextPins.rst = false → ¬ (s.busy = true ∧ s.edgesLeft ≤ 1) →
    ¬ (s.busy = false ∧ s.nextPins.cmdValid = true ∧ s.pLat = 1) →
    ∃ t, step s = .next t ∧ outputs t = { outputs s with cmdReady := (outputs t).cmdReady })

/-- 93_implementation_defined.md U2: CMDQ is not read while BUSY = 0. Whatever it holds then, the step leaves the same
state but for CMDQ itself. -/
def Obligations.CommandQueueIsNotReadWhileReady : Prop :=
  ∀ (s : State) (c d : Command), s.busy = false →
    ∃ t u, step s = .next t ∧ step { s with cmdq := c } = .next u ∧ { t with cmdq := d } = { u with cmdq := d }

/-- 60_exceptions.md R185 and R187: no state, operand or command stops the unit, and each step leaves P_LAT as it is. -/
def Obligations.EveryStepAnswersANextState : Prop :=
  ∀ s : State, ∃ t, step s = .next t ∧ t.pLat = s.pLat ∧ t.pins = s.pins.tail

/-! ## Invariants -/

/-- Every step keeps the invariant, from every state that meets it and whatever the host drives: FMT legal, LAY_E at
least 1, a preset's layout under a preset, BITS masked, the results consistent with the layout and the source, a
command in flight within its latency. -/
def Obligations.StepKeepsTheStateConsistent : Prop :=
  ∀ s t : State, Inv s → step s = .next t → Inv t

/-- The reset state meets the invariant. -/
def Obligations.ResetStateIsConsistent : Prop := Inv State.reset

/-! ## Encoding -/

/-- Decoding gives `i` exactly for the words that agree with the encoder's word of `i` on the bits `i` reads, and with
its data word where it reads one; and the encoder's own words decode to `i`, for every instruction. -/
def Obligations.DecodingAgreesWithEncoding : Prop :=
  (∀ i : Instr, decodeCommand (encodeCommand i) = .ok i) ∧
  (∀ (c : Command) (i : Instr), decodeCommand c = .ok i ↔
    c.word &&& i.readMask = (encodeCommand i).word ∧ (i.readsData = true → c.data = (encodeCommand i).data))

/-- R92: a command with any value in its ignored bits, or in a data word it does not read, behaves exactly as the same
command with them 0. -/
def Obligations.IgnoredBitsHaveNoEffect : Prop :=
  ∀ (c : Command) (i : Instr) (s : State), decodeCommand c = .ok i →
    decodeCommand { word := c.word &&& i.readMask, data := if i.readsData then c.data else 0#64 } = .ok i ∧
    runCommand c s = runCommand { word := c.word &&& i.readMask, data := if i.readsData then c.data else 0#64 } s

/-- R90: executing a word with OP 0x7 to 0xF sets STATUS to ERR_CMD and changes nothing else; only these are illegal. -/
def Obligations.IllegalOpcodeWritesErrCmdAlone : Prop :=
  ∀ (c : Command), (7 ≤ (c.word.extractLsb' 28 4).toNat ↔
      decodeCommand c = .error (.illegalOpcode (c.word.extractLsb' 28 4))) ∧
    (7 ≤ (c.word.extractLsb' 28 4).toNat → ∀ s : State, runCommand c s = .next { s with status := .errCmd })

/-- Words written out from the spec's encoding (30_encoding.md R87 and the examples of R96) decode to the commands they
stand for. -/
def Obligations.WordsOfTheSpecDecode : Prop :=
  decodeCommand ⟨0x00000000#32, 0#64⟩ = .ok .nop ∧
  decodeCommand ⟨0x10000001#32, 0#64⟩ = .ok (.setfmt 1#4) ∧
  decodeCommand ⟨0x10000008#32, 0#64⟩ = .ok (.setfmt 8#4) ∧
  decodeCommand ⟨0x2000050A#32, 0#64⟩ = .ok (.setlay 5#6 10#6) ∧
  decodeCommand ⟨0x2000281E#32, 0#64⟩ = .ok (.setlay 40#6 30#6) ∧
  decodeCommand ⟨0x20000800#32, 0#64⟩ = .ok (.setlay 8#6 0#6) ∧
  decodeCommand ⟨0x30000000#32, 0x0000000040490FDB#64⟩ = .ok (.decode 0x40490FDB#64) ∧
  decodeCommand ⟨0x40000000#32, 0x8000000000000000#64⟩ = .ok (.encode 0x8000000000000000#64) ∧
  decodeCommand ⟨0x50000001#32, 0#64⟩ = .ok (.decerr .bin) ∧
  decodeCommand ⟨0x60000000#32, 0#64⟩ = .ok .encerr

/-- R95: LAYOUT E, M expands to SETFMT custom then SETLAY E, M, and is the only pseudo-command: every other line is one
command. -/
def Obligations.LayoutLineExpandsToTwoCommands : Prop :=
  (∀ e m : BitVec 6, (AsmLine.layout e m).expand = [.setfmt 8#4, .setlay e m]) ∧
  (∀ l : AsmLine, (∀ e m, l ≠ .layout e m) → ∃ i, l.expand = [i])

/-! ## The commands -/

/-- R100: NOP changes no register, STATUS included. -/
def Obligations.NopChangesNothing : Prop :=
  ∀ s : State, exec .nop s = .next s

/-- R104 with the presets of R102: a TAG above 8 writes ERR_CMD and nothing else; a preset writes FMT and its widths and
re-decodes; Custom writes FMT, keeps the widths and re-decodes. Redecoded says what a re-decode leaves of every
register, and that nothing else changes. -/
def Obligations.SetfmtSelectsTheFormat : Prop :=
  ∀ s : State,
    (∀ tag : BitVec 4, 8 < tag.toNat → exec (.setfmt tag) s = .next { s with status := .errCmd }) ∧
    (∀ x ∈ ([(0#4, 8#6, 23#6), (1#4, 5#6, 10#6), (2#4, 8#6, 7#6), (3#4, 8#6, 10#6), (4#4, 4#6, 3#6), (5#4, 5#6, 2#6),
        (6#4, 2#6, 1#6), (7#4, 8#6, 0#6)] : List (BitVec 4 × BitVec 6 × BitVec 6)),
      ∃ t, exec (.setfmt x.1) s = .next t ∧ Redecoded { s with fmt := x.1, layE := x.2.1, layM := x.2.2 } t) ∧
    (∃ t, exec (.setfmt 8#4) s = .next t ∧ Redecoded { s with fmt := 8#4 } t)

/-- R106: SETLAY writes ERR_LAYOUT and nothing else when the active format is not Custom or LE = 0; else it writes the
widths, a wide pair among them, and re-decodes. -/
def Obligations.SetlaySetsTheCustomWidths : Prop :=
  ∀ (s : State) (le lm : BitVec 6),
    ((s.fmt ≠ 8#4 ∨ le = 0#6) → exec (.setlay le lm) s = .next { s with status := .errLayout }) ∧
    (s.fmt = 8#4 → le ≠ 0#6 →
      ∃ t, exec (.setlay le lm) s = .next t ∧ Redecoded { s with layE := le, layM := lm } t)

/-- R126: DECODE stores the masked pattern, sets SRCV and re-decodes: STATUS is OK under a narrow layout, and ERR_WIDTH
with BITS holding cmd_data whole under a wide one; never a parse error. -/
def Obligations.DecodeDecodesTheMaskedPattern : Prop :=
  ∀ (s : State) (b : Word64), ∃ t, exec (.decode b) s = .next t ∧
    Redecoded { s with bits := b &&& lowmask s.total, srcv := true } t ∧
    (s.total ≤ 64 → t.status = .ok ∧ t.bits.toNat = b.toNat % 2 ^ s.total ∧
      t.results = decCore t.bits s.widthE s.widthM) ∧
    (64 < s.total → t.status = .errWidth ∧ t.bits = b ∧ t.results = clearedResult)

/-- R128: DECERR clears SRCV and BITS, records the base and re-decodes: always an error, ERR_WIDTH under a wide layout,
else the parse error of its base, and the result registers cleared. -/
def Obligations.DecerrReportsTheParseError : Prop :=
  ∀ (s : State) (base : ParseBase), ∃ t, exec (.decerr base) s = .next t ∧
    t = { s with srcv := false, srcb := base, bits := 0#64, cls := .noResult, sign := false, value := 0#64,
                 sig := 0#64, exp2 := 0#64, pba := 0#64, status := t.status } ∧
    t.status = (if 64 < s.total then .errWidth else if base = .hex then .errHex else .errBin)

/-- R160: ENCODE under a narrow layout stores ENC_CORE of its operand, sets SRCV and re-decodes, with STATUS OK; under a
wide one BITS and SRCV are unchanged and the re-decode gives ERR_WIDTH with the results cleared. -/
def Obligations.EncodeStoresAndDecodesThePattern : Prop :=
  ∀ (s : State) (v : Word64), ∃ t, exec (.encode v) s = .next t ∧
    (s.total ≤ 64 → Redecoded { s with bits := encCore v s.widthE s.widthM, srcv := true } t ∧ t.status = .ok) ∧
    (64 < s.total → Redecoded s t ∧ t.status = .errWidth ∧ t.bits = s.bits ∧ t.srcv = s.srcv ∧
      t.results = clearedResult)

/-- R163: ENCERR writes ERR_FLOAT to STATUS and nothing else, under every layout. -/
def Obligations.EncerrWritesStatusAlone : Prop :=
  ∀ s : State, exec .encerr s = .next { s with status := .errFloat }

/-- R184: the status each command leaves, the first error of its pseudocode winning; an illegal word leaves ERR_CMD. -/
def Obligations.FirstErrorWins : Prop :=
  (∀ (i : Instr) (s : State), ∃ t, exec i s = .next t ∧ t.status = statusAfter i s) ∧
  (∀ (c : Command) (s : State), 7 ≤ (c.word.extractLsb' 28 4).toNat →
    ∃ t, runCommand c s = .next t ∧ t.status = .errCmd)

/-- R182: a command that leaves ERR_FLOAT, ERR_LAYOUT or ERR_CMD changed STATUS and nothing else (NOP, which writes no
status, changes nothing at all). -/
def Obligations.OtherErrorsWriteStatusAlone : Prop :=
  ∀ (c : Command) (s t : State), runCommand c s = .next t →
    (t.status = .errFloat ∨ t.status = .errLayout ∨ t.status = .errCmd) → t = { s with status := t.status }

/-- A command other than NOP that leaves ERR_WIDTH, ERR_HEX or ERR_BIN has cleared the result registers, and one that
leaves OK has them at the decode of BITS under the layout (60_exceptions.md R180, R181; 42_encode.md R161). -/
def Obligations.StatusTellsTheResults : Prop :=
  ∀ (i : Instr) (s t : State), i ≠ .nop → exec i s = .next t →
    ((t.status = .errWidth ∨ t.status = .errHex ∨ t.status = .errBin) → t.results = clearedResult) ∧
    (t.status = .ok → t.total ≤ 64 ∧ t.srcv = true ∧ t.results = decCore t.bits t.widthE t.widthM)

/-- The frame of every command, as "written only by" of 10_state.md section 2 and 3 and the "registers written" of each
command give it: FMT only by SETFMT, the layout only by SETFMT and SETLAY, SRCV only by DECODE, ENCODE and DECERR, SRCB
only by DECERR, nothing by NOP, STATUS alone by ENCERR; no command writes BUSY, CMDQ, P_LAT or the inputs. -/
def Obligations.OnlyTheNamedCommandsWriteARegister : Prop :=
  ∀ (i : Instr) (s t : State), exec i s = .next t →
    (t.fmt = s.fmt ∨ ∃ tag, i = .setfmt tag) ∧
    (t.layE = s.layE ∧ t.layM = s.layM ∨ (∃ tag, i = .setfmt tag) ∨ ∃ le lm, i = .setlay le lm) ∧
    (t.srcv = s.srcv ∨ (∃ b, i = .decode b) ∨ (∃ v, i = .encode v) ∨ ∃ base, i = .decerr base) ∧
    (t.srcb = s.srcb ∨ ∃ base, i = .decerr base) ∧
    (t.bits = s.bits ∧ t.results = s.results ∨ i ≠ .nop ∧ i ≠ .encerr) ∧
    (t.status = s.status ∨ i ≠ .nop) ∧
    t.busy = s.busy ∧ t.cmdq = s.cmdq ∧ t.edgesLeft = s.edgesLeft ∧ t.pLatPred = s.pLatPred ∧ t.pins = s.pins

/-- A command with a reserved argument value (30_encoding.md R91) writes STATUS alone, in every state; one without
leaves neither ERR_CMD nor ERR_LAYOUT, except SETLAY under a preset (refused for FMT) and NOP (which keeps STATUS). The
word "well-formed" is the model's (log entry 9). -/
def Obligations.OnlyReservedArgumentsAreRefused : Prop :=
  (∀ (i : Instr) (s : State), i.wellFormed = false →
    ∃ c, (c = .errCmd ∨ c = .errLayout) ∧ exec i s = .next { s with status := c }) ∧
  (∀ (i : Instr) (s t : State), i.wellFormed = true → i ≠ .nop → (s.fmt = 8#4 ∨ ∀ le lm, i ≠ .setlay le lm) →
    exec i s = .next t → t.status ≠ .errCmd ∧ t.status ≠ .errLayout)

/-! ## DEC_CORE -/

/-- R131: PBA[i] is bit total-1-i of the pattern for i < total and 0 from there on, in every class; so PBA[0] is the
sign, PBA[1..E] the exponent field and PBA[E+1..E+M] the mantissa field, each MSB first. -/
def Obligations.PerBitArrayIsThePatternMsbFirst : Prop :=
  ∀ (b : Word64) (E M : Nat), LegalLayout E M →
    (∀ i, (decCore b E M).pba.getLsbD i = (decide (i < 1 + E + M) && b.getLsbD (1 + E + M - 1 - i))) ∧
    (decCore b E M).pba.getLsbD 0 = (decCore b E M).sign ∧
    (∀ j, j < E → (decCore b E M).pba.getLsbD (1 + j) = (expField b E M).testBit (E - 1 - j)) ∧
    (∀ j, j < M → (decCore b E M).pba.getLsbD (E + 1 + j) = (mantField b M).testBit (M - 1 - j))

/-- R121, with the fields read by shift and mask as the rule writes them: the tuple (CLASS, SIGN, VALUE, SIG, EXP2,
PBA) DEC_CORE gives in each of its branches. -/
def Obligations.DecCoreGivesTheTupleOfItsRule : Prop :=
  ∀ (b : Word64) (E M sf ef mf : Nat), LegalLayout E M →
    sf = (b.toNat >>> (1 + E + M - 1)) &&& 1 → ef = (b.toNat >>> M) &&& (2 ^ E - 1) → mf = b.toNat &&& (2 ^ M - 1) →
    (decCore b E M).sign = decide (sf = 1) ∧
    (∀ i, i < 1 + E + M → ((decCore b E M).pba.toNat >>> i) &&& 1 = (b.toNat >>> (1 + E + M - 1 - i)) &&& 1) ∧
    (decCore b E M).pba.toNat < 2 ^ (1 + E + M) ∧
    (ef = 2 ^ E - 1 → mf = 0 →
      (decCore b E M).cls = .inf ∧
      (decCore b E M).value = (if sf = 1 then 0xFFF0000000000000#64 else 0x7FF0000000000000#64) ∧
      (decCore b E M).sig = 0#64 ∧ (decCore b E M).exp2 = 0#64) ∧
    (ef = 2 ^ E - 1 → mf ≠ 0 →
      (decCore b E M).cls = .nan ∧ (decCore b E M).value = 0x7FF8000000000000#64 ∧
      (decCore b E M).sig = 0#64 ∧ (decCore b E M).exp2 = 0#64) ∧
    (ef ≠ 2 ^ E - 1 →
      (decCore b E M).cls = .number ∧
      (decCore b E M).sig.toNat = (if ef = 0 then mf else 2 ^ M + mf) ∧
      (decCore b E M).exp2.toInt =
        (if ef = 0 then 1 - (2 ^ (E - 1) - 1) - (M : ℤ) else (ef : ℤ) - (2 ^ (E - 1) - 1) - (M : ℤ)) ∧
      (decCore b E M).value =
        roundF64 (decide (sf = 1)) (decCore b E M).sig.toNat (decCore b E M).exp2.toInt)

/-- 41_decode.md R127: an all-ones exponent field is an infinity with a zero mantissa field and a NaN with any other;
every other exponent field is a NUMBER. SIGN is the sign bit in every class, VALUE the signed infinity or F64_QNAN, SIG
and EXP2 are 0 for both. With M = 0 there is no NaN. -/
def Obligations.AllOnesExponentIsInfinityOrNaN : Prop :=
  ∀ (b : Word64) (E M : Nat), LegalLayout E M →
    (decCore b E M).sign = b.getLsbD (E + M) ∧
    (expField b E M = 2 ^ E - 1 → mantField b M = 0 →
      (decCore b E M).cls = .inf ∧ (decCore b E M).value = f64Infinity (b.getLsbD (E + M)) ∧
      (decCore b E M).sig = 0#64 ∧ (decCore b E M).exp2 = 0#64) ∧
    (expField b E M = 2 ^ E - 1 → mantField b M ≠ 0 →
      (decCore b E M).cls = .nan ∧ (decCore b E M).value = 0x7FF8000000000000#64 ∧
      (decCore b E M).sig = 0#64 ∧ (decCore b E M).exp2 = 0#64) ∧
    (expField b E M ≠ 2 ^ E - 1 → (decCore b E M).cls = .number) ∧
    (M = 0 → (decCore b E M).cls ≠ .nan)

/-- 41_decode.md R125: SIG · 2^EXP2 with its sign is the value of the fields, (mf / 2^M) · 2^(1 - bias) with exponent
field 0 and (1 + mf / 2^M) · 2^(ef - bias) otherwise. -/
def Obligations.DecodedNumberHasTheValueOfItsFields : Prop :=
  ∀ (b : Word64) (E M : Nat), LegalLayout E M → (decCore b E M).cls = .number →
    (decCore b E M).exactValue =
      withSign (b.getLsbD (E + M))
        (if expField b E M = 0 then ((mantField b M : ℚ) / 2 ^ M) * (2 : ℚ) ^ (1 - (bias E : ℤ))
         else (1 + (mantField b M : ℚ) / 2 ^ M) * (2 : ℚ) ^ ((expField b E M : ℤ) - (bias E : ℤ)))

/-- 10_state.md R34 and R35: SIG is below 2^63 and EXP2 lies in -2^62 + 2 to 2^62 - 1, in every class. -/
def Obligations.SigAndExp2StayInRange : Prop :=
  ∀ (b : Word64) (E M : Nat), LegalLayout E M →
    (decCore b E M).sig.toNat < 2 ^ 63 ∧
    -2 ^ 62 + 2 ≤ (decCore b E M).exp2.toInt ∧ (decCore b E M).exp2.toInt ≤ 2 ^ 62 - 1

/-- R132: the pattern 0 decodes to +0.0 and the pattern 1 << (total-1) to -0.0, both NUMBER with SIG 0 and EXP2 =
1 - bias - M. -/
def Obligations.ZeroPatternsDecodeToSignedZeros : Prop :=
  ∀ E M : Nat, LegalLayout E M →
    ((decCore 0#64 E M).cls = .number ∧ (decCore 0#64 E M).sign = false ∧
      (decCore 0#64 E M).value = 0x0000000000000000#64 ∧ (decCore 0#64 E M).sig = 0#64 ∧
      (decCore 0#64 E M).exp2.toInt = 1 - (2 ^ (E - 1) - 1) - (M : ℤ)) ∧
    ((decCore (1#64 <<< (1 + E + M - 1)) E M).cls = .number ∧ (decCore (1#64 <<< (1 + E + M - 1)) E M).sign = true ∧
      (decCore (1#64 <<< (1 + E + M - 1)) E M).value = 0x8000000000000000#64 ∧
      (decCore (1#64 <<< (1 + E + M - 1)) E M).sig = 0#64 ∧
      (decCore (1#64 <<< (1 + E + M - 1)) E M).exp2.toInt = 1 - (2 ^ (E - 1) - 1) - (M : ℤ))

/-- R130: with M = 0 every finite value is a signed zero (exponent field 0) or the power of two 2^(ef - bias). -/
def Obligations.NoMantissaGivesPowersOfTwo : Prop :=
  ∀ (b : Word64) (E : Nat), LegalLayout E 0 → (decCore b E 0).cls = .number →
    (expField b E 0 = 0 → (decCore b E 0).sig = 0#64 ∧ (decCore b E 0).exactValue = 0) ∧
    (expField b E 0 ≠ 0 → (decCore b E 0).sig = 1#64 ∧
      (decCore b E 0).exactValue =
        withSign (b.getLsbD E) ((2 : ℚ) ^ ((expField b E 0 : ℤ) - (2 ^ (E - 1) - 1))))

/-- 41_decode.md R134: with E = 1 the bias is 0 and every finite value is the subnormal mf · 2^(1 - M). -/
def Obligations.OneExponentBitHasOnlySubnormals : Prop :=
  ∀ (b : Word64) (M : Nat), LegalLayout 1 M → bias 1 = 0 ∧
    ((decCore b 1 M).cls = .number ↔ b.getLsbD M = false) ∧
    ((decCore b 1 M).cls = .number →
      (decCore b 1 M).exactValue = withSign (b.getLsbD (1 + M)) ((mantField b M : ℚ) * (2 : ℚ) ^ (1 - (M : ℤ))))

/-- 41_decode.md R129: VALUE is exact for every pattern of every layout with E ≤ 11 and M ≤ 52, so for every preset. -/
def Obligations.ValueIsExactWithinBinary64 : Prop :=
  ∀ (b : Word64) (E M : Nat), LegalLayout E M → E ≤ 11 → M ≤ 52 → (decCore b E M).cls = .number →
    F64Finite (decCore b E M).value ∧ f64Value (decCore b E M).value = (decCore b E M).exactValue

/-! ## Rounding -/

/-- round_f64 of 00_scope.md section 4: the sign is kept; the infinity of the sign from 2^1024 - 2^970 on; below it a
finite binary64 nearest to the exact value, and on a tie the one with an even fraction. -/
def Obligations.RoundF64IsNearestTiesToEven : Prop :=
  ∀ (s : Bool) (m : Nat) (t : Int),
    f64Sign (roundF64 s m t) = s ∧
    ((2 : ℚ) ^ 1024 - (2 : ℚ) ^ 970 ≤ scaled m t → roundF64 s m t = f64Infinity s) ∧
    (scaled m t < (2 : ℚ) ^ 1024 - (2 : ℚ) ^ 970 →
      F64Finite (roundF64 s m t) ∧
      ∀ w : Word64, F64Finite w →
        |f64Value (roundF64 s m t) - withSign s (scaled m t)| ≤ |f64Value w - withSign s (scaled m t)| ∧
        (|f64Value (roundF64 s m t) - withSign s (scaled m t)| = |f64Value w - withSign s (scaled m t)| →
          f64Value w ≠ f64Value (roundF64 s m t) → f64Fv (roundF64 s m t) % 2 = 0))

/-- rhaz, ilog2 and lowmask of 00_scope.md section 4: floor(x + 1/2), the exact floor(log2 x), 2^min(t, 64) - 1. -/
def Obligations.IntegerPrimitivesAreExact : Prop :=
  (∀ (m : Nat) (t : Int), (rhaz m t : ℤ) = ⌊scaled m t + 1 / 2⌋) ∧
  (∀ (m : Nat) (t : Int), 0 < m → (2 : ℚ) ^ ilog2 m t ≤ scaled m t ∧ scaled m t < (2 : ℚ) ^ (ilog2 m t + 1)) ∧
  (∀ t : Nat, (lowmask t).toNat = 2 ^ min t 64 - 1)

/-! ## ENC_CORE -/

/-- R151 on exact rationals, as the rule writes it: NaN, infinity and zero operands; overflow; and for any other finite
operand of magnitude a, with exp the floor of log2 a, the fraction f, n = floor(f · 2^M + 1/2), the carry, and the
assembly of sign, exponent field and n. -/
def Obligations.EncCoreGivesThePatternOfItsRule : Prop :=
  ∀ (v : Word64) (E M : Nat), LegalLayout E M →
    (f64IsNaN v = true → (encCore v E M).toNat = (2 ^ E - 1) * 2 ^ M + (if 0 < M then 2 ^ (M - 1) else 0)) ∧
    (f64IsInf v = true →
      (encCore v E M).toNat = (if v.getLsbD 63 then 2 ^ (1 + E + M - 1) else 0) + (2 ^ E - 1) * 2 ^ M) ∧
    (f64IsZero v = true → (encCore v E M).toNat = (if v.getLsbD 63 then 2 ^ (1 + E + M - 1) else 0)) ∧
    (F64Finite v → f64IsZero v = false →
      ∀ exp : ℤ, (2 : ℚ) ^ exp ≤ |f64Value v| → |f64Value v| < (2 : ℚ) ^ (exp + 1) →
        (2 ^ E - 2 - (2 ^ (E - 1) - 1) < exp →
          (encCore v E M).toNat = (if v.getLsbD 63 then 2 ^ (1 + E + M - 1) else 0) + (2 ^ E - 1) * 2 ^ M) ∧
        (exp ≤ 2 ^ E - 2 - (2 ^ (E - 1) - 1) →
          ∀ (f : ℚ) (ef n : ℤ),
            f = (if exp < 1 - (2 ^ (E - 1) - 1) then
                  |f64Value v| / (2 : ℚ) ^ exp * (2 : ℚ) ^ (exp - (1 - (2 ^ (E - 1) - 1)))
                else |f64Value v| / (2 : ℚ) ^ exp - 1) →
            ef = (if exp < 1 - (2 ^ (E - 1) - 1) then 0 else exp + (2 ^ (E - 1) - 1)) →
            n = ⌊f * (2 : ℚ) ^ M + 1 / 2⌋ →
            ((encCore v E M).toNat : ℤ) = (if v.getLsbD 63 then 2 ^ (1 + E + M - 1) else 0) +
              (if n = 2 ^ M then (ef + 1) * 2 ^ M else ef * 2 ^ M + n)))

/-- 42_encode.md R151: ENC_CORE gives a pattern of total bits, every bit above total-1 zero. -/
def Obligations.EncodedPatternFitsTheLayout : Prop :=
  ∀ (v : Word64) (E M : Nat), LegalLayout E M → (encCore v E M).toNat < 2 ^ (1 + E + M)

/-- R152: every NaN encodes to sign 0, an all-ones exponent field and a mantissa field with only its top bit set; with
M = 0 to the pattern emask, which decodes as +infinity. -/
def Obligations.EveryNaNEncodesToOnePattern : Prop :=
  ∀ (v : Word64) (E M : Nat), LegalLayout E M → f64IsNaN v = true →
    signField (encCore v E M) E M = false ∧ expField (encCore v E M) E M = 2 ^ E - 1 ∧
    (0 < M → mantField (encCore v E M) M = 2 ^ (M - 1)) ∧
    (M = 0 → (encCore v E M).toNat = 2 ^ E - 1 ∧ (decCore (encCore v E M) E M).cls = .inf ∧
      (decCore (encCore v E M) E M).sign = false)

/-- R158: an infinity encodes to the all-ones exponent, a zero mantissa and its sign; a zero to all-zero exponent and
mantissa and its sign, so -0.0 to 1 << (total-1). -/
def Obligations.InfinitiesAndZerosKeepTheirSign : Prop :=
  ∀ (v : Word64) (E M : Nat), LegalLayout E M →
    (f64IsInf v = true → signField (encCore v E M) E M = v.getLsbD 63 ∧ expField (encCore v E M) E M = 2 ^ E - 1 ∧
      mantField (encCore v E M) M = 0) ∧
    (f64IsZero v = true → signField (encCore v E M) E M = v.getLsbD 63 ∧ expField (encCore v E M) E M = 0 ∧
      mantField (encCore v E M) M = 0) ∧
    encCore 0x8000000000000000#64 E M = 1#64 <<< (1 + E + M - 1)

/-- R153: exp is the exact floor(log2 |v|) of a finite nonzero operand and 1 ≤ |v| / 2^exp < 2. For a normal exp is
ev - 1023; for a subnormal it is the index of the highest set bit of fv less 1074, in -1074 to -1023. -/
def Obligations.OperandExponentIsExact : Prop :=
  ∀ v : Word64, F64Finite v → f64IsZero v = false →
    1 ≤ |f64Value v| / (2 : ℚ) ^ ilog2 (f64Sig v) (f64Exp v) ∧
    |f64Value v| / (2 : ℚ) ^ ilog2 (f64Sig v) (f64Exp v) < 2 ∧
    (f64Ev v ≠ 0 → ilog2 (f64Sig v) (f64Exp v) = (f64Ev v : ℤ) - 1023) ∧
    (f64Ev v = 0 → ilog2 (f64Sig v) (f64Exp v) = (Nat.log2 (f64Fv v) : ℤ) - 1074 ∧
      -1074 ≤ ilog2 (f64Sig v) (f64Exp v) ∧ ilog2 (f64Sig v) (f64Exp v) ≤ -1023)

/-- 42_encode.md R154: an operand with exp > max_exp encodes to the infinity of its sign, whatever its significand. -/
def Obligations.OverflowGivesInfinity : Prop :=
  ∀ (v : Word64) (E M : Nat), LegalLayout E M → F64Finite v → f64IsZero v = false →
    maxExp E < ilog2 (f64Sig v) (f64Exp v) →
    signField (encCore v E M) E M = v.getLsbD 63 ∧ expField (encCore v E M) E M = 2 ^ E - 1 ∧
    mantField (encCore v E M) M = 0

/-- 42_encode.md R165, its exception made exact: a finite nonzero operand encodes to an infinity, of its own sign,
exactly from half a spacing past the largest finite value on; it never encodes to a NaN, and keeps its sign. -/
def Obligations.EncodeOverflowsExactlyAtTheThreshold : Prop :=
  ∀ (v : Word64) (E M : Nat), LegalLayout E M → F64Finite v → f64IsZero v = false →
    ((decCore (encCore v E M) E M).cls = .inf ↔ overflowThreshold E M ≤ |f64Value v|) ∧
    (decCore (encCore v E M) E M).cls ≠ .nan ∧ (decCore (encCore v E M) E M).sign = f64Sign v

/-- 42_encode.md R165: below the overflow threshold ENC_CORE gives a pattern whose exact decoded value is nearest to the
operand among all finite values of the layout, and on a tie one of the larger magnitude. -/
def Obligations.EncodeGivesTheNearestValue : Prop :=
  ∀ (v : Word64) (E M : Nat), LegalLayout E M → F64Finite v → f64IsZero v = false →
    |f64Value v| < overflowThreshold E M →
    (decCore (encCore v E M) E M).cls = .number ∧
    ∀ b : Word64, (decCore b E M).cls = .number →
      |(decCore (encCore v E M) E M).exactValue - f64Value v| ≤ |(decCore b E M).exactValue - f64Value v| ∧
      (|(decCore (encCore v E M) E M).exactValue - f64Value v| = |(decCore b E M).exactValue - f64Value v| →
        |(decCore b E M).exactValue| ≤ |(decCore (encCore v E M) E M).exactValue|)

/-- 42_encode.md R164: encoding the VALUE of a decoded pattern gives the pattern back, for every NUMBER whose VALUE is
exact and every infinity; for a NaN, which needs M ≥ 1, it gives the canonical NaN, which decodes as NaN again. -/
def Obligations.EncodeOfDecodedValueIsThePattern : Prop :=
  ∀ (b : Word64) (E M : Nat), LegalLayout E M → b.toNat < 2 ^ (1 + E + M) →
    ((decCore b E M).cls = .number → F64Finite (decCore b E M).value →
      f64Value (decCore b E M).value = (decCore b E M).exactValue → encCore (decCore b E M).value E M = b) ∧
    ((decCore b E M).cls = .inf → encCore (decCore b E M).value E M = b) ∧
    ((decCore b E M).cls = .nan → 1 ≤ M ∧ encCore (decCore b E M).value E M = nanPattern E M ∧
      (decCore (nanPattern E M) E M).cls = .nan)

/-! ## Derived outputs -/

/-- R43: o_total carries total and o_wide carries WIDE, whatever the state. -/
def Obligations.TotalAndWidePortsFollowTheLayout : Prop :=
  ∀ s : State, (outputs s).oTotal.toNat = 1 + s.layE.toNat + s.layM.toNat ∧
    ((outputs s).oWide = 1#1 ↔ 64 < 1 + s.layE.toNat + s.layM.toNat)

/-- R44: o_bias carries bias = 2^(E-1) - 1, which is 0 to 2^62 - 1, in every state with LAY_E at least 1 (10_state.md
R24, an invariant of its own). -/
def Obligations.BiasPortCarriesTheBias : Prop :=
  ∀ s : State, s.layE ≠ 0#6 →
    (outputs s).oBias.toNat = 2 ^ (s.layE.toNat - 1) - 1 ∧ (outputs s).oBias.toNat ≤ 2 ^ 62 - 1

/-- R45: o_region at bits 2i+1:2i is 1 (sign) for i = 0, 2 (exponent) for 1 ≤ i ≤ E, 3 (mantissa) for E+1 ≤ i ≤ E+M and
0 (none) from total on, for a wide layout too; it depends on the layout alone. -/
def Obligations.RegionPortNamesTheFields : Prop :=
  ∀ (s : State) (i : Nat), i < 64 →
    (i = 0 → (outputs s).oRegion.extractLsb' (2 * i) 2 = 1#2) ∧
    (1 ≤ i → i ≤ s.layE.toNat → (outputs s).oRegion.extractLsb' (2 * i) 2 = 2#2) ∧
    (s.layE.toNat + 1 ≤ i → i ≤ s.layE.toNat + s.layM.toNat → (outputs s).oRegion.extractLsb' (2 * i) 2 = 3#2) ∧
    (1 + s.layE.toNat + s.layM.toNat ≤ i → (outputs s).oRegion.extractLsb' (2 * i) 2 = 0#2)
end

