-- ==== Sys2Proof/Laws/Decode.lean ====
section
/-! SUPPORT. What the decoder answers for each opcode, so that no proof unfolds it. -/

namespace Sys2Proof

theorem decodeCommand_nop (c : Command) (h : cwOp c.word = 0#4) : decodeCommand c = .ok .nop := by
  simp [decodeCommand, h]

theorem decodeCommand_setfmt (c : Command) (h : cwOp c.word = 1#4) :
    decodeCommand c = .ok (.setfmt (cwTag c.word)) := by simp [decodeCommand, h]

theorem decodeCommand_setlay (c : Command) (h : cwOp c.word = 2#4) :
    decodeCommand c = .ok (.setlay (cwLe c.word) (cwLm c.word)) := by simp [decodeCommand, h]

theorem decodeCommand_decode (c : Command) (h : cwOp c.word = 3#4) : decodeCommand c = .ok (.decode c.data) := by
  simp [decodeCommand, h]

theorem decodeCommand_encode (c : Command) (h : cwOp c.word = 4#4) : decodeCommand c = .ok (.encode c.data) := by
  simp [decodeCommand, h]

theorem decodeCommand_decerr (c : Command) (h : cwOp c.word = 5#4) :
    decodeCommand c = .ok (.decerr (cwBase c.word)) := by simp [decodeCommand, h]

theorem decodeCommand_encerr (c : Command) (h : cwOp c.word = 6#4) : decodeCommand c = .ok .encerr := by
  simp [decodeCommand, h]

theorem decodeCommand_illegal (c : Command) (h : 7 ≤ (cwOp c.word).toNat) :
    decodeCommand c = .error (.illegalOpcode (cwOp c.word)) := by
  unfold decodeCommand
  split <;> first | omega | rfl

/-- Every command word falls under one of the eight outcomes (30_encoding.md R89). -/
theorem cwOp_cases (w : CmdWord) :
    cwOp w = 0#4 ∨ cwOp w = 1#4 ∨ cwOp w = 2#4 ∨ cwOp w = 3#4 ∨ cwOp w = 4#4 ∨ cwOp w = 5#4 ∨ cwOp w = 6#4 ∨
      7 ≤ (cwOp w).toNat := by
  generalize cwOp w = op
  revert op
  decide

end Sys2Proof
end

