-- ==== Sys2Proof/Laws/State.lean ====
section
/-! SUPPORT. What each update of State does to each field, so that no proof unfolds a record update. -/

namespace Sys2Proof.Machine

/-! ### State.setResults -/

@[simp] theorem State.setResults_fmt (s : State) (d : Decoded) : (s.setResults d).fmt = s.fmt := rfl
@[simp] theorem State.setResults_layE (s : State) (d : Decoded) : (s.setResults d).layE = s.layE := rfl
@[simp] theorem State.setResults_layM (s : State) (d : Decoded) : (s.setResults d).layM = s.layM := rfl
@[simp] theorem State.setResults_bits (s : State) (d : Decoded) : (s.setResults d).bits = s.bits := rfl
@[simp] theorem State.setResults_srcv (s : State) (d : Decoded) : (s.setResults d).srcv = s.srcv := rfl
@[simp] theorem State.setResults_srcb (s : State) (d : Decoded) : (s.setResults d).srcb = s.srcb := rfl
@[simp] theorem State.setResults_status (s : State) (d : Decoded) : (s.setResults d).status = s.status := rfl
@[simp] theorem State.setResults_cls (s : State) (d : Decoded) : (s.setResults d).cls = d.cls := rfl
@[simp] theorem State.setResults_sign (s : State) (d : Decoded) : (s.setResults d).sign = d.sign := rfl
@[simp] theorem State.setResults_value (s : State) (d : Decoded) : (s.setResults d).value = d.value := rfl
@[simp] theorem State.setResults_sig (s : State) (d : Decoded) : (s.setResults d).sig = d.sig := rfl
@[simp] theorem State.setResults_exp2 (s : State) (d : Decoded) : (s.setResults d).exp2 = d.exp2 := rfl
@[simp] theorem State.setResults_pba (s : State) (d : Decoded) : (s.setResults d).pba = d.pba := rfl
@[simp] theorem State.setResults_busy (s : State) (d : Decoded) : (s.setResults d).busy = s.busy := rfl
@[simp] theorem State.setResults_cmdq (s : State) (d : Decoded) : (s.setResults d).cmdq = s.cmdq := rfl
@[simp] theorem State.setResults_edgesLeft (s : State) (d : Decoded) : (s.setResults d).edgesLeft = s.edgesLeft := rfl
@[simp] theorem State.setResults_pLatPred (s : State) (d : Decoded) : (s.setResults d).pLatPred = s.pLatPred := rfl
@[simp] theorem State.setResults_pins (s : State) (d : Decoded) : (s.setResults d).pins = s.pins := rfl
@[simp] theorem State.setResults_results (s : State) (d : Decoded) : (s.setResults d).results = d := rfl
@[simp] theorem State.setResults_widthE (s : State) (d : Decoded) : (s.setResults d).widthE = s.widthE := rfl
@[simp] theorem State.setResults_widthM (s : State) (d : Decoded) : (s.setResults d).widthM = s.widthM := rfl
@[simp] theorem State.setResults_total (s : State) (d : Decoded) : (s.setResults d).total = s.total := rfl
@[simp] theorem State.setResults_wide (s : State) (d : Decoded) : (s.setResults d).wide = s.wide := rfl

/-! ### State.setStatus -/

@[simp] theorem State.setStatus_fmt (s : State) (c : Status) : (s.setStatus c).fmt = s.fmt := rfl
@[simp] theorem State.setStatus_layE (s : State) (c : Status) : (s.setStatus c).layE = s.layE := rfl
@[simp] theorem State.setStatus_layM (s : State) (c : Status) : (s.setStatus c).layM = s.layM := rfl
@[simp] theorem State.setStatus_bits (s : State) (c : Status) : (s.setStatus c).bits = s.bits := rfl
@[simp] theorem State.setStatus_srcv (s : State) (c : Status) : (s.setStatus c).srcv = s.srcv := rfl
@[simp] theorem State.setStatus_srcb (s : State) (c : Status) : (s.setStatus c).srcb = s.srcb := rfl
@[simp] theorem State.setStatus_status (s : State) (c : Status) : (s.setStatus c).status = c := rfl
@[simp] theorem State.setStatus_cls (s : State) (c : Status) : (s.setStatus c).cls = s.cls := rfl
@[simp] theorem State.setStatus_sign (s : State) (c : Status) : (s.setStatus c).sign = s.sign := rfl
@[simp] theorem State.setStatus_value (s : State) (c : Status) : (s.setStatus c).value = s.value := rfl
@[simp] theorem State.setStatus_sig (s : State) (c : Status) : (s.setStatus c).sig = s.sig := rfl
@[simp] theorem State.setStatus_exp2 (s : State) (c : Status) : (s.setStatus c).exp2 = s.exp2 := rfl
@[simp] theorem State.setStatus_pba (s : State) (c : Status) : (s.setStatus c).pba = s.pba := rfl
@[simp] theorem State.setStatus_busy (s : State) (c : Status) : (s.setStatus c).busy = s.busy := rfl
@[simp] theorem State.setStatus_cmdq (s : State) (c : Status) : (s.setStatus c).cmdq = s.cmdq := rfl
@[simp] theorem State.setStatus_edgesLeft (s : State) (c : Status) : (s.setStatus c).edgesLeft = s.edgesLeft := rfl
@[simp] theorem State.setStatus_pLatPred (s : State) (c : Status) : (s.setStatus c).pLatPred = s.pLatPred := rfl
@[simp] theorem State.setStatus_pins (s : State) (c : Status) : (s.setStatus c).pins = s.pins := rfl
@[simp] theorem State.setStatus_results (s : State) (c : Status) : (s.setStatus c).results = s.results := rfl
@[simp] theorem State.setStatus_widthE (s : State) (c : Status) : (s.setStatus c).widthE = s.widthE := rfl
@[simp] theorem State.setStatus_widthM (s : State) (c : Status) : (s.setStatus c).widthM = s.widthM := rfl
@[simp] theorem State.setStatus_total (s : State) (c : Status) : (s.setStatus c).total = s.total := rfl
@[simp] theorem State.setStatus_wide (s : State) (c : Status) : (s.setStatus c).wide = s.wide := rfl

/-! ### State.setSource -/

@[simp] theorem State.setSource_fmt (s : State) (b : Word64) (v : Bool) : (s.setSource b v).fmt = s.fmt := rfl
@[simp] theorem State.setSource_layE (s : State) (b : Word64) (v : Bool) : (s.setSource b v).layE = s.layE := rfl
@[simp] theorem State.setSource_layM (s : State) (b : Word64) (v : Bool) : (s.setSource b v).layM = s.layM := rfl
@[simp] theorem State.setSource_bits (s : State) (b : Word64) (v : Bool) : (s.setSource b v).bits = b := rfl
@[simp] theorem State.setSource_srcv (s : State) (b : Word64) (v : Bool) : (s.setSource b v).srcv = v := rfl
@[simp] theorem State.setSource_srcb (s : State) (b : Word64) (v : Bool) : (s.setSource b v).srcb = s.srcb := rfl
@[simp] theorem State.setSource_status (s : State) (b : Word64) (v : Bool) : (s.setSource b v).status = s.status := rfl
@[simp] theorem State.setSource_cls (s : State) (b : Word64) (v : Bool) : (s.setSource b v).cls = s.cls := rfl
@[simp] theorem State.setSource_sign (s : State) (b : Word64) (v : Bool) : (s.setSource b v).sign = s.sign := rfl
@[simp] theorem State.setSource_value (s : State) (b : Word64) (v : Bool) : (s.setSource b v).value = s.value := rfl
@[simp] theorem State.setSource_sig (s : State) (b : Word64) (v : Bool) : (s.setSource b v).sig = s.sig := rfl
@[simp] theorem State.setSource_exp2 (s : State) (b : Word64) (v : Bool) : (s.setSource b v).exp2 = s.exp2 := rfl
@[simp] theorem State.setSource_pba (s : State) (b : Word64) (v : Bool) : (s.setSource b v).pba = s.pba := rfl
@[simp] theorem State.setSource_busy (s : State) (b : Word64) (v : Bool) : (s.setSource b v).busy = s.busy := rfl
@[simp] theorem State.setSource_cmdq (s : State) (b : Word64) (v : Bool) : (s.setSource b v).cmdq = s.cmdq := rfl
@[simp] theorem State.setSource_edgesLeft (s : State) (b : Word64) (v : Bool) : (s.setSource b v).edgesLeft = s.edgesLeft := rfl
@[simp] theorem State.setSource_pLatPred (s : State) (b : Word64) (v : Bool) : (s.setSource b v).pLatPred = s.pLatPred := rfl
@[simp] theorem State.setSource_pins (s : State) (b : Word64) (v : Bool) : (s.setSource b v).pins = s.pins := rfl
@[simp] theorem State.setSource_results (s : State) (b : Word64) (v : Bool) : (s.setSource b v).results = s.results := rfl
@[simp] theorem State.setSource_widthE (s : State) (b : Word64) (v : Bool) : (s.setSource b v).widthE = s.widthE := rfl
@[simp] theorem State.setSource_widthM (s : State) (b : Word64) (v : Bool) : (s.setSource b v).widthM = s.widthM := rfl
@[simp] theorem State.setSource_total (s : State) (b : Word64) (v : Bool) : (s.setSource b v).total = s.total := rfl
@[simp] theorem State.setSource_wide (s : State) (b : Word64) (v : Bool) : (s.setSource b v).wide = s.wide := rfl

/-! ### State.setBits -/

@[simp] theorem State.setBits_fmt (s : State) (b : Word64) : (s.setBits b).fmt = s.fmt := rfl
@[simp] theorem State.setBits_layE (s : State) (b : Word64) : (s.setBits b).layE = s.layE := rfl
@[simp] theorem State.setBits_layM (s : State) (b : Word64) : (s.setBits b).layM = s.layM := rfl
@[simp] theorem State.setBits_bits (s : State) (b : Word64) : (s.setBits b).bits = b := rfl
@[simp] theorem State.setBits_srcv (s : State) (b : Word64) : (s.setBits b).srcv = s.srcv := rfl
@[simp] theorem State.setBits_srcb (s : State) (b : Word64) : (s.setBits b).srcb = s.srcb := rfl
@[simp] theorem State.setBits_status (s : State) (b : Word64) : (s.setBits b).status = s.status := rfl
@[simp] theorem State.setBits_cls (s : State) (b : Word64) : (s.setBits b).cls = s.cls := rfl
@[simp] theorem State.setBits_sign (s : State) (b : Word64) : (s.setBits b).sign = s.sign := rfl
@[simp] theorem State.setBits_value (s : State) (b : Word64) : (s.setBits b).value = s.value := rfl
@[simp] theorem State.setBits_sig (s : State) (b : Word64) : (s.setBits b).sig = s.sig := rfl
@[simp] theorem State.setBits_exp2 (s : State) (b : Word64) : (s.setBits b).exp2 = s.exp2 := rfl
@[simp] theorem State.setBits_pba (s : State) (b : Word64) : (s.setBits b).pba = s.pba := rfl
@[simp] theorem State.setBits_busy (s : State) (b : Word64) : (s.setBits b).busy = s.busy := rfl
@[simp] theorem State.setBits_cmdq (s : State) (b : Word64) : (s.setBits b).cmdq = s.cmdq := rfl
@[simp] theorem State.setBits_edgesLeft (s : State) (b : Word64) : (s.setBits b).edgesLeft = s.edgesLeft := rfl
@[simp] theorem State.setBits_pLatPred (s : State) (b : Word64) : (s.setBits b).pLatPred = s.pLatPred := rfl
@[simp] theorem State.setBits_pins (s : State) (b : Word64) : (s.setBits b).pins = s.pins := rfl
@[simp] theorem State.setBits_results (s : State) (b : Word64) : (s.setBits b).results = s.results := rfl
@[simp] theorem State.setBits_widthE (s : State) (b : Word64) : (s.setBits b).widthE = s.widthE := rfl
@[simp] theorem State.setBits_widthM (s : State) (b : Word64) : (s.setBits b).widthM = s.widthM := rfl
@[simp] theorem State.setBits_total (s : State) (b : Word64) : (s.setBits b).total = s.total := rfl
@[simp] theorem State.setBits_wide (s : State) (b : Word64) : (s.setBits b).wide = s.wide := rfl

/-! ### State.setBase -/

@[simp] theorem State.setBase_fmt (s : State) (b : ParseBase) : (s.setBase b).fmt = s.fmt := rfl
@[simp] theorem State.setBase_layE (s : State) (b : ParseBase) : (s.setBase b).layE = s.layE := rfl
@[simp] theorem State.setBase_layM (s : State) (b : ParseBase) : (s.setBase b).layM = s.layM := rfl
@[simp] theorem State.setBase_bits (s : State) (b : ParseBase) : (s.setBase b).bits = s.bits := rfl
@[simp] theorem State.setBase_srcv (s : State) (b : ParseBase) : (s.setBase b).srcv = s.srcv := rfl
@[simp] theorem State.setBase_srcb (s : State) (b : ParseBase) : (s.setBase b).srcb = b := rfl
@[simp] theorem State.setBase_status (s : State) (b : ParseBase) : (s.setBase b).status = s.status := rfl
@[simp] theorem State.setBase_cls (s : State) (b : ParseBase) : (s.setBase b).cls = s.cls := rfl
@[simp] theorem State.setBase_sign (s : State) (b : ParseBase) : (s.setBase b).sign = s.sign := rfl
@[simp] theorem State.setBase_value (s : State) (b : ParseBase) : (s.setBase b).value = s.value := rfl
@[simp] theorem State.setBase_sig (s : State) (b : ParseBase) : (s.setBase b).sig = s.sig := rfl
@[simp] theorem State.setBase_exp2 (s : State) (b : ParseBase) : (s.setBase b).exp2 = s.exp2 := rfl
@[simp] theorem State.setBase_pba (s : State) (b : ParseBase) : (s.setBase b).pba = s.pba := rfl
@[simp] theorem State.setBase_busy (s : State) (b : ParseBase) : (s.setBase b).busy = s.busy := rfl
@[simp] theorem State.setBase_cmdq (s : State) (b : ParseBase) : (s.setBase b).cmdq = s.cmdq := rfl
@[simp] theorem State.setBase_edgesLeft (s : State) (b : ParseBase) : (s.setBase b).edgesLeft = s.edgesLeft := rfl
@[simp] theorem State.setBase_pLatPred (s : State) (b : ParseBase) : (s.setBase b).pLatPred = s.pLatPred := rfl
@[simp] theorem State.setBase_pins (s : State) (b : ParseBase) : (s.setBase b).pins = s.pins := rfl
@[simp] theorem State.setBase_results (s : State) (b : ParseBase) : (s.setBase b).results = s.results := rfl
@[simp] theorem State.setBase_widthE (s : State) (b : ParseBase) : (s.setBase b).widthE = s.widthE := rfl
@[simp] theorem State.setBase_widthM (s : State) (b : ParseBase) : (s.setBase b).widthM = s.widthM := rfl
@[simp] theorem State.setBase_total (s : State) (b : ParseBase) : (s.setBase b).total = s.total := rfl
@[simp] theorem State.setBase_wide (s : State) (b : ParseBase) : (s.setBase b).wide = s.wide := rfl

/-! ### State.setFmt -/

@[simp] theorem State.setFmt_fmt (s : State) (t : BitVec 4) : (s.setFmt t).fmt = t := rfl
@[simp] theorem State.setFmt_layE (s : State) (t : BitVec 4) : (s.setFmt t).layE = s.layE := rfl
@[simp] theorem State.setFmt_layM (s : State) (t : BitVec 4) : (s.setFmt t).layM = s.layM := rfl
@[simp] theorem State.setFmt_bits (s : State) (t : BitVec 4) : (s.setFmt t).bits = s.bits := rfl
@[simp] theorem State.setFmt_srcv (s : State) (t : BitVec 4) : (s.setFmt t).srcv = s.srcv := rfl
@[simp] theorem State.setFmt_srcb (s : State) (t : BitVec 4) : (s.setFmt t).srcb = s.srcb := rfl
@[simp] theorem State.setFmt_status (s : State) (t : BitVec 4) : (s.setFmt t).status = s.status := rfl
@[simp] theorem State.setFmt_cls (s : State) (t : BitVec 4) : (s.setFmt t).cls = s.cls := rfl
@[simp] theorem State.setFmt_sign (s : State) (t : BitVec 4) : (s.setFmt t).sign = s.sign := rfl
@[simp] theorem State.setFmt_value (s : State) (t : BitVec 4) : (s.setFmt t).value = s.value := rfl
@[simp] theorem State.setFmt_sig (s : State) (t : BitVec 4) : (s.setFmt t).sig = s.sig := rfl
@[simp] theorem State.setFmt_exp2 (s : State) (t : BitVec 4) : (s.setFmt t).exp2 = s.exp2 := rfl
@[simp] theorem State.setFmt_pba (s : State) (t : BitVec 4) : (s.setFmt t).pba = s.pba := rfl
@[simp] theorem State.setFmt_busy (s : State) (t : BitVec 4) : (s.setFmt t).busy = s.busy := rfl
@[simp] theorem State.setFmt_cmdq (s : State) (t : BitVec 4) : (s.setFmt t).cmdq = s.cmdq := rfl
@[simp] theorem State.setFmt_edgesLeft (s : State) (t : BitVec 4) : (s.setFmt t).edgesLeft = s.edgesLeft := rfl
@[simp] theorem State.setFmt_pLatPred (s : State) (t : BitVec 4) : (s.setFmt t).pLatPred = s.pLatPred := rfl
@[simp] theorem State.setFmt_pins (s : State) (t : BitVec 4) : (s.setFmt t).pins = s.pins := rfl
@[simp] theorem State.setFmt_results (s : State) (t : BitVec 4) : (s.setFmt t).results = s.results := rfl
@[simp] theorem State.setFmt_widthE (s : State) (t : BitVec 4) : (s.setFmt t).widthE = s.widthE := rfl
@[simp] theorem State.setFmt_widthM (s : State) (t : BitVec 4) : (s.setFmt t).widthM = s.widthM := rfl
@[simp] theorem State.setFmt_total (s : State) (t : BitVec 4) : (s.setFmt t).total = s.total := rfl
@[simp] theorem State.setFmt_wide (s : State) (t : BitVec 4) : (s.setFmt t).wide = s.wide := rfl

/-! ### State.setLayout -/

@[simp] theorem State.setLayout_fmt (s : State) (e m : BitVec 6) : (s.setLayout e m).fmt = s.fmt := rfl
@[simp] theorem State.setLayout_layE (s : State) (e m : BitVec 6) : (s.setLayout e m).layE = e := rfl
@[simp] theorem State.setLayout_layM (s : State) (e m : BitVec 6) : (s.setLayout e m).layM = m := rfl
@[simp] theorem State.setLayout_bits (s : State) (e m : BitVec 6) : (s.setLayout e m).bits = s.bits := rfl
@[simp] theorem State.setLayout_srcv (s : State) (e m : BitVec 6) : (s.setLayout e m).srcv = s.srcv := rfl
@[simp] theorem State.setLayout_srcb (s : State) (e m : BitVec 6) : (s.setLayout e m).srcb = s.srcb := rfl
@[simp] theorem State.setLayout_status (s : State) (e m : BitVec 6) : (s.setLayout e m).status = s.status := rfl
@[simp] theorem State.setLayout_cls (s : State) (e m : BitVec 6) : (s.setLayout e m).cls = s.cls := rfl
@[simp] theorem State.setLayout_sign (s : State) (e m : BitVec 6) : (s.setLayout e m).sign = s.sign := rfl
@[simp] theorem State.setLayout_value (s : State) (e m : BitVec 6) : (s.setLayout e m).value = s.value := rfl
@[simp] theorem State.setLayout_sig (s : State) (e m : BitVec 6) : (s.setLayout e m).sig = s.sig := rfl
@[simp] theorem State.setLayout_exp2 (s : State) (e m : BitVec 6) : (s.setLayout e m).exp2 = s.exp2 := rfl
@[simp] theorem State.setLayout_pba (s : State) (e m : BitVec 6) : (s.setLayout e m).pba = s.pba := rfl
@[simp] theorem State.setLayout_busy (s : State) (e m : BitVec 6) : (s.setLayout e m).busy = s.busy := rfl
@[simp] theorem State.setLayout_cmdq (s : State) (e m : BitVec 6) : (s.setLayout e m).cmdq = s.cmdq := rfl
@[simp] theorem State.setLayout_edgesLeft (s : State) (e m : BitVec 6) : (s.setLayout e m).edgesLeft = s.edgesLeft := rfl
@[simp] theorem State.setLayout_pLatPred (s : State) (e m : BitVec 6) : (s.setLayout e m).pLatPred = s.pLatPred := rfl
@[simp] theorem State.setLayout_pins (s : State) (e m : BitVec 6) : (s.setLayout e m).pins = s.pins := rfl
@[simp] theorem State.setLayout_results (s : State) (e m : BitVec 6) : (s.setLayout e m).results = s.results := rfl
@[simp] theorem State.setLayout_widthE (s : State) (e m : BitVec 6) : (s.setLayout e m).widthE = e.toNat := rfl
@[simp] theorem State.setLayout_widthM (s : State) (e m : BitVec 6) : (s.setLayout e m).widthM = m.toNat := rfl
@[simp] theorem State.setLayout_total (s : State) (e m : BitVec 6) : (s.setLayout e m).total = 1 + e.toNat + m.toNat := rfl

/-! ### State.takePins -/

@[simp] theorem State.takePins_fmt (s : State) : s.takePins.fmt = s.fmt := rfl
@[simp] theorem State.takePins_layE (s : State) : s.takePins.layE = s.layE := rfl
@[simp] theorem State.takePins_layM (s : State) : s.takePins.layM = s.layM := rfl
@[simp] theorem State.takePins_bits (s : State) : s.takePins.bits = s.bits := rfl
@[simp] theorem State.takePins_srcv (s : State) : s.takePins.srcv = s.srcv := rfl
@[simp] theorem State.takePins_srcb (s : State) : s.takePins.srcb = s.srcb := rfl
@[simp] theorem State.takePins_status (s : State) : s.takePins.status = s.status := rfl
@[simp] theorem State.takePins_cls (s : State) : s.takePins.cls = s.cls := rfl
@[simp] theorem State.takePins_sign (s : State) : s.takePins.sign = s.sign := rfl
@[simp] theorem State.takePins_value (s : State) : s.takePins.value = s.value := rfl
@[simp] theorem State.takePins_sig (s : State) : s.takePins.sig = s.sig := rfl
@[simp] theorem State.takePins_exp2 (s : State) : s.takePins.exp2 = s.exp2 := rfl
@[simp] theorem State.takePins_pba (s : State) : s.takePins.pba = s.pba := rfl
@[simp] theorem State.takePins_busy (s : State) : s.takePins.busy = s.busy := rfl
@[simp] theorem State.takePins_cmdq (s : State) : s.takePins.cmdq = s.cmdq := rfl
@[simp] theorem State.takePins_edgesLeft (s : State) : s.takePins.edgesLeft = s.edgesLeft := rfl
@[simp] theorem State.takePins_pLatPred (s : State) : s.takePins.pLatPred = s.pLatPred := rfl
@[simp] theorem State.takePins_pins (s : State) : s.takePins.pins = s.pins.tail := rfl

@[simp] theorem State.nextPins_nil (s : State) (h : s.pins = []) : s.nextPins = idlePins := by simp [State.nextPins, h]
@[simp] theorem State.nextPins_cons (s : State) (p : Pins) (ps : List Pins) (h : s.pins = p :: ps) : s.nextPins = p := by
  simp [State.nextPins, h]

end Sys2Proof.Machine
end

