-- ==== Sys2Proof/Laws/Ops.lean ====
section
/-! SUPPORT. One lemma per shared operation that says everything it can do. -/

namespace Sys2Proof.Machine

theorem wide_iff (s : State) : s.wide = true ↔ 64 < s.total := by
  rw [State.wide, decide_eq_true_iff]
  rfl

theorem raiseStatusOnly_eq (c : Status) (s : State) : raiseStatusOnly c s = { s with status := c } := rfl

theorem raiseDecodeSide_eq (c : Status) (s : State) :
    raiseDecodeSide c s =
      { s with status := c, cls := .noResult, sign := false, value := 0#64, sig := 0#64, exp2 := 0#64,
               pba := 0#64 } := rfl

/-- REDECODE does what R123 says, in every state. -/
theorem redecode_spec (s : State) : Redecoded s (redecode s) := by
  by_cases hw : s.wide = true
  · have h : 64 < s.total := (wide_iff s).1 hw
    have e : redecode s = raiseDecodeSide .errWidth s := by simp [redecode, hw]
    rw [e]
    exact ⟨rfl, fun _ => ⟨rfl, rfl, rfl⟩, fun h' => absurd h (by omega), fun h' => absurd h (by omega)⟩
  · have h : ¬ 64 < s.total := fun h => hw ((wide_iff s).2 h)
    cases hv : s.srcv with
    | false =>
      have e : redecode s = raiseDecodeSide (parseErrorStatus s.srcb) s := by simp [redecode, hw, hv]
      rw [e]
      exact ⟨rfl, fun h' => absurd h' h, fun _ _ => ⟨rfl, rfl, rfl⟩, fun _ h' => absurd h' (by simp [hv])⟩
    | true =>
      have e : redecode s =
          (((s.setBits (s.bits &&& lowmask s.total)).setResults
            (decCore (s.bits &&& lowmask s.total) s.widthE s.widthM)).setStatus .ok) := by
        simp [redecode, hw, hv]
      rw [e]
      exact ⟨rfl, fun h' => absurd h' h, fun _ h' => absurd h' (by simp [hv]), fun _ _ => ⟨rfl, rfl, rfl⟩⟩

/-- What REDECODE leaves is determined by R123. -/
theorem Redecoded.unique {s t u : State} (ht : Redecoded s t) (hu : Redecoded s u) : t = u := by
  have key : t.bits = u.bits ∧ t.status = u.status ∧ t.results = u.results := by
    rcases Nat.lt_or_ge 64 s.total with h | h
    · obtain ⟨a, b, c⟩ := ht.wide h
      obtain ⟨a', b', c'⟩ := hu.wide h
      exact ⟨c.trans c'.symm, a.trans a'.symm, b.trans b'.symm⟩
    · cases hv : s.srcv with
      | false =>
        obtain ⟨a, b, c⟩ := ht.pending h hv
        obtain ⟨a', b', c'⟩ := hu.pending h hv
        exact ⟨c.trans c'.symm, a.trans a'.symm, b.trans b'.symm⟩
      | true =>
        obtain ⟨a, b, c⟩ := ht.decoded h hv
        obtain ⟨a', b', c'⟩ := hu.decoded h hv
        have e : t.bits = u.bits := a.trans a'.symm
        exact ⟨e, b.trans b'.symm, by rw [c, c', e]⟩
  obtain ⟨h1, h2, h3⟩ := key
  simp only [State.results, Decoded.mk.injEq] at h3
  obtain ⟨a, b, c, d, e, f⟩ := h3
  rw [ht.frame, hu.frame, h1, h2, a, b, c, d, e, f]

/-- Every command word answers a next state: no fault, no refusal (60_exceptions.md R185). -/
theorem exec_total (i : Instr) (s : State) : ∃ t, exec i s = .next t := by
  cases i <;> simp only [exec, execNop, execSetfmt, execSetlay, execDecode, execEncode, execDecerr, execEncerr] <;>
    (try split) <;> exact ⟨_, rfl⟩

theorem runCommand_total (c : Command) (s : State) : ∃ t, runCommand c s = .next t := by
  unfold runCommand
  split
  · exact exec_total _ s
  · exact ⟨_, rfl⟩

/-- Everything an accepting edge can do. -/
theorem accept_cases (c : Command) (s : State) :
    (s.pLatPred = 0 ∧ accept c s = commit { s with cmdq := c }) ∨
    (s.pLatPred ≠ 0 ∧ accept c s = .next { s with cmdq := c, busy := true, edgesLeft := s.pLatPred }) := by
  cases h : s.pLatPred with
  | zero => exact .inl ⟨rfl, by simp [accept, h]⟩
  | succ n => exact .inr ⟨by simp, by simp [accept, h]⟩

/-- Everything one rising edge can do. -/
theorem edge_cases (p : Pins) (s : State) :
    (p.rst = true ∧ edge p s = .next (applyReset s)) ∨
    (p.rst = false ∧ s.busy = true ∧ s.edgesLeft ≤ 1 ∧ edge p s = commit s) ∨
    (p.rst = false ∧ s.busy = true ∧ 1 < s.edgesLeft ∧
      edge p s = .next { s with edgesLeft := s.edgesLeft - 1 }) ∨
    (p.rst = false ∧ s.busy = false ∧ p.cmdValid = true ∧ edge p s = accept p.command s) ∨
    (p.rst = false ∧ s.busy = false ∧ p.cmdValid = false ∧ edge p s = .next s) := by
  cases hr : p.rst with
  | true => exact .inl ⟨rfl, by simp [edge, hr]⟩
  | false =>
    cases hb : s.busy with
    | true =>
      by_cases he : s.edgesLeft ≤ 1
      · exact .inr (.inl ⟨rfl, rfl, he, by simp [edge, hr, hb, he]⟩)
      · exact .inr (.inr (.inl ⟨rfl, rfl, by omega, by simp [edge, hr, hb, he]⟩))
    | false =>
      cases hv : p.cmdValid with
      | true => exact .inr (.inr (.inr (.inl ⟨rfl, rfl, rfl, by simp [edge, hr, hb, hv]⟩)))
      | false => exact .inr (.inr (.inr (.inr ⟨rfl, rfl, rfl, by simp [edge, hr, hb, hv]⟩)))

/-- Everything SETFMT does to the layout: a preset's widths, or nothing. -/
theorem usePreset_cases (tag : BitVec 4) (s : State) :
    (∃ e m, preset tag = some (e, m) ∧ s.usePreset tag = s.setLayout e m) ∨
    (preset tag = none ∧ s.usePreset tag = s) := by
  cases h : preset tag with
  | none => exact .inr ⟨rfl, by simp [State.usePreset, h]⟩
  | some x => exact .inl ⟨x.1, x.2, rfl, by simp [State.usePreset, h]⟩

/-- A tag that is not refused names Custom or a preset, whose layout is legal and at most 32 bits wide
(40_layout.md R102). -/
theorem preset_of_legal_tag (tag : BitVec 4) (h : tag.toNat ≤ 8) :
    tag = customTag ∨ ∃ e m, preset tag = some (e, m) ∧ e ≠ 0#6 ∧ totalBits e.toNat m.toNat ≤ 32 := by
  have key : ∀ tag : BitVec 4, tag.toNat ≤ 8 → tag = customTag ∨
      (preset tag).any (fun x => decide (x.1 ≠ 0#6 ∧ totalBits x.1.toNat x.2.toNat ≤ 32)) = true := by decide
  rcases key tag h with h1 | h1
  · exact .inl h1
  · rw [Option.any_eq_true] at h1
    obtain ⟨x, hx, hp⟩ := h1
    exact .inr ⟨x.1, x.2, hx, of_decide_eq_true hp⟩

/-- The hidden state and the inputs replaced, every output register kept. -/
def State.withHidden (s h : State) : State :=
  { s with busy := h.busy, cmdq := h.cmdq, edgesLeft := h.edgesLeft, pLatPred := h.pLatPred, pins := h.pins }

theorem redecode_withHidden (h s : State) : redecode (s.withHidden h) = (redecode s).withHidden h := by
  have hw : (s.withHidden h).wide = s.wide := rfl
  have hv : (s.withHidden h).srcv = s.srcv := rfl
  unfold redecode
  rw [hw, hv]
  cases s.wide <;> cases s.srcv <;> rfl

/-- No command reads or writes the hidden state or the inputs. -/
theorem exec_withHidden (i : Instr) (h s t : State) (e : exec i s = .next t) :
    exec i (s.withHidden h) = .next (t.withHidden h) := by
  cases i with
  | nop => cases e; rfl
  | setfmt tag =>
    by_cases ht : 8 < tag.toNat
    · rw [exec, execSetfmt, if_pos ht] at e ⊢
      cases e
      rfl
    · rw [exec, execSetfmt, if_neg ht] at e ⊢
      cases e
      rw [← redecode_withHidden]
      unfold State.usePreset
      cases preset tag <;> rfl
  | setlay le lm =>
    have hf : (s.withHidden h).fmt = s.fmt := rfl
    by_cases hc : s.fmt ≠ customTag ∨ le = 0#6
    · rw [exec, execSetlay, if_pos hc] at e
      rw [exec, execSetlay, hf, if_pos hc]
      cases e
      rfl
    · rw [exec, execSetlay, if_neg hc] at e
      rw [exec, execSetlay, hf, if_neg hc]
      cases e
      rw [← redecode_withHidden]
      rfl
  | decode b => cases e; rw [← redecode_withHidden]; rfl
  | encode v =>
    have hw : (s.withHidden h).wide = s.wide := rfl
    rw [exec, execEncode] at e ⊢
    rw [hw]
    cases hs : s.wide with
    | false =>
      rw [hs] at e
      cases e
      simp only [Bool.false_eq_true, if_false, ← redecode_withHidden]
      rfl
    | true =>
      rw [hs] at e
      cases e
      simp only [if_true, redecode_withHidden]
  | decerr base => cases e; rw [← redecode_withHidden]; rfl
  | encerr => cases e; rfl

/-- No command word reads or writes the hidden state or the inputs. -/
theorem runCommand_withHidden (c : Command) (h s t : State) (e : runCommand c s = .next t) :
    runCommand c (s.withHidden h) = .next (t.withHidden h) := by
  unfold runCommand at e ⊢
  cases hd : decodeCommand c with
  | ok i =>
    rw [hd] at e
    exact exec_withHidden i h s t e
  | error r =>
    rw [hd] at e
    cases e
    rfl

/-- A command word leaves the hidden state and the inputs as they were. -/
theorem runCommand_hidden (c : Command) (s t : State) (e : runCommand c s = .next t) : t.withHidden s = t := by
  have h := runCommand_withHidden c s s t e
  have hs : s.withHidden s = s := rfl
  rw [hs, e] at h
  exact (Host.Outcome.next.inj h).symm

end Sys2Proof.Machine
end

