-- ==== Sys2Proof/Laws/PerInstr.lean ====
section
/-! SUPPORT. Statements about every command as syntax, one lemma per constructor. -/

namespace Sys2Proof.Laws.EncodedWord

/-- The word the encoder writes selects a command, never an illegal one, and every ignored bit of it is 0
(30_encoding.md R87, R92). -/
def Statement (i : Instr) : Prop :=
  (cwOp (encodeCommand i).word).toNat ≤ 6 ∧ (encodeCommand i).word &&& i.readMask = (encodeCommand i).word ∧
  (i.readsData = false → (encodeCommand i).data = 0#64)

theorem nop : Statement .nop := by unfold Statement; decide

theorem setfmt (tag : BitVec 4) : Statement (.setfmt tag) := by
  revert tag
  unfold Statement
  decide

theorem setlay (le lm : BitVec 6) : Statement (.setlay le lm) := by
  refine ⟨?_, ?_, fun _ => rfl⟩
  · simp only [encodeCommand, cwOp]
    have : BitVec.extractLsb' 28 4 (0x20000000#32 ||| le.setWidth 32 <<< 8 ||| lm.setWidth 32) = 2#4 := by
      ext i hi
      have : i = 0 ∨ i = 1 ∨ i = 2 ∨ i = 3 := by omega
      rcases this with rfl | rfl | rfl | rfl <;> simp
    rw [this]
    decide
  · ext i hi
    simp only [encodeCommand, Instr.readMask, BitVec.getElem_and, BitVec.getElem_or, BitVec.getElem_shiftLeft,
      BitVec.getElem_setWidth]
    by_cases h : i < 6
    · interval_cases i <;> simp
    · have hm : lm.getLsbD i = false := BitVec.getLsbD_of_ge _ _ (by omega)
      by_cases h14 : i < 14
      · interval_cases i <;> simp_all
      · have he : le.getLsbD (i - 8) = false := BitVec.getLsbD_of_ge _ _ (by omega)
        interval_cases i <;> simp_all

theorem decode (b : Word64) : Statement (.decode b) := by
  refine ⟨?_, ?_, fun h => absurd h (by simp [Instr.readsData])⟩
  · show (cwOp 0x30000000#32).toNat ≤ 6
    decide
  · show 0x30000000#32 &&& 0xF0000000#32 = 0x30000000#32
    decide

theorem encode (v : Word64) : Statement (.encode v) := by
  refine ⟨?_, ?_, fun h => absurd h (by simp [Instr.readsData])⟩
  · show (cwOp 0x40000000#32).toNat ≤ 6
    decide
  · show 0x40000000#32 &&& 0xF0000000#32 = 0x40000000#32
    decide

theorem decerr (base : ParseBase) : Statement (.decerr base) := by
  unfold Statement; cases base <;> decide

theorem encerr : Statement .encerr := by unfold Statement; decide

end Sys2Proof.Laws.EncodedWord
end

