-- ==== Sys2Proof/Tests/Slice0.lean ====
section
/-! SUPPORT. The author's own tests: the WellFormed smoke, words written out from the spec's encoding, one step of each
command against spec/95_test_vectors.md, and a witness for the hypotheses of each statement. -/

namespace Sys2Proof.Tests

open Sys2Proof Sys2Proof.Machine

/-! ## WellFormed: each check refuses an ill-formed term -/

theorem test_setfmt_reserved_tag_is_ill_formed : Instr.wellFormed (.setfmt 9#4) = false := by decide
theorem test_setlay_zero_exponent_is_ill_formed : Instr.wellFormed (.setlay 0#6 4#6) = false := by decide
theorem test_setlay_wide_is_well_formed : Instr.wellFormed (.setlay 63#6 63#6) = true := by decide

/-! ## Decoding: words written out bit by bit (OP, RSV, ARG) from 30_encoding.md R81 to R87 -/

theorem test_decode_nop : decodeTableWord 32 0b0000_000000000000_0000000000000000 = some .nop := by decide
theorem test_decode_setfmt : decodeTableWord 32 0b0001_000000000000_000000000000_0111 = some (.setfmt 7#4) := by decide
theorem test_decode_setfmt_ignores_bits :
    decodeTableWord 32 0b0001_111111111111_111111111111_0001 = some (.setfmt 1#4) := by decide
theorem test_decode_setlay :
    decodeTableWord 32 0b0010_000000000000_00_101000_00_011110 = some (.setlay 40#6 30#6) := by decide
theorem test_decode_setlay_ignores_bits :
    decodeTableWord 32 0b0010_000000000000_11_001000_11_010111 = some (.setlay 8#6 23#6) := by decide
theorem test_decode_decode : decodeTableWord 32 0b0011_000000000000_0000000000000000 = some (.decode 0#64) := by decide
theorem test_decode_encode : decodeTableWord 32 0b0100_000000000000_0000000000000000 = some (.encode 0#64) := by decide
theorem test_decode_decerr_hex :
    decodeTableWord 32 0b0101_000000000000_000000000000000_0 = some (.decerr .hex) := by decide
theorem test_decode_decerr_bin :
    decodeTableWord 32 0b0101_000000000000_000000000000000_1 = some (.decerr .bin) := by decide
theorem test_decode_encerr : decodeTableWord 32 0b0110_000000000000_0000000000000000 = some .encerr := by decide
theorem test_decode_illegal : decodeTableWord 32 0b0111_000000000000_0000000000000000 = none := by decide
theorem test_decode_data_word :
    decodeTableWord 96 (0x40490FDB * 2 ^ 32 + 0x30000000) = some (.decode 0x40490FDB#64) := by decide

/-! ## One step of each command (95_test_vectors.md) -/

/-- The state of a next outcome. -/
def nextOf : Host.Outcome State Fault Refusal → State
  | .next s => s
  | .refused _ => State.reset

/-- One edge at which the host presents a command. -/
def issue (word : CmdWord) (data : Word64) (s : State) : State :=
  nextOf (step { s with pins := [presentPins { word := word, data := data }] })

/-- A state under Custom with the given widths and pattern. -/
def customState (e m : BitVec 6) (b : Word64) : State :=
  { State.reset with fmt := 8#4, layE := e, layM := m, bits := b }

/-- V-NOP-2: NOP keeps ERR_FLOAT. -/
theorem test_nop_keeps_status :
    issue 0x0FFFFFFF#32 0x1234#64 { State.reset with status := .errFloat } =
      { State.reset with status := .errFloat, cmdq := { word := 0x0FFFFFFF#32, data := 0x1234#64 } } := by decide

/-- V-SETFMT-2: fp4 from BITS 0x40490FDB. -/
theorem test_setfmt_fp4 :
    (issue 0x10000006#32 0#64 { State.reset with bits := 0x40490FDB#64 }).results =
      { cls := .number, sign := true, value := 0xBFF8000000000000#64, sig := 3#64, exp2 := BitVec.ofInt 64 (-1),
        pba := 0xD#64 } := by decide

/-- V-SETFMT-7: a reserved tag. -/
theorem test_setfmt_reserved_tag :
    (issue 0x10000009#32 0#64 State.reset).status = .errCmd ∧ (issue 0x10000009#32 0#64 State.reset).fmt = 0#4 := by
  decide

/-- V-SETLAY-3: a wide pair is held and BITS kept. -/
theorem test_setlay_wide :
    (issue 0x2000281E#32 0#64 (customState 8#6 23#6 0x3F800000#64)).status = .errWidth ∧
    (issue 0x2000281E#32 0#64 (customState 8#6 23#6 0x3F800000#64)).layE = 40#6 ∧
    (issue 0x2000281E#32 0#64 (customState 8#6 23#6 0x3F800000#64)).bits = 0x3F800000#64 := by decide

/-- V-SETLAY-5: refused under a preset. -/
theorem test_setlay_under_preset : (issue 0x2000050A#32 0#64 State.reset).status = .errLayout := by decide

/-- S1: pi under Fp32. -/
theorem test_decode_pi :
    (issue 0x30000000#32 0x40490FDB#64 State.reset).results =
      { cls := .number, sign := false, value := 0x400921FB60000000#64, sig := 0xC90FDB#64,
        exp2 := BitVec.ofInt 64 (-22), pba := 0xDBF09202#64 } := by decide +kernel

/-- V-DECODE-8: VALUE is rounded under (2, 61). -/
theorem test_decode_rounds_value :
    (issue 0x30000000#32 0x3FFFFFFFFFFFFFFF#64 (customState 2#6 61#6 0#64)).value = 0x4000000000000000#64 := by decide

/-- V-ENCODE-5: the carry under fp8e4m3. -/
theorem test_encode_carry :
    (issue 0x40000000#32 0x3FFF800000000000#64 (customState 4#6 3#6 0#64)).bits = 0x40#64 := by decide

/-- 2.2: a tie on the subnormal path, 2^-25 under Fp16. -/
theorem test_encode_subnormal_tie :
    (issue 0x40000000#32 0x3E60000000000000#64 (customState 5#6 10#6 0#64)).bits = 1#64 := by decide

/-- V-DECERR-2. -/
theorem test_decerr_bin :
    (issue 0x50000001#32 0#64 State.reset).status = .errBin ∧ (issue 0x50000001#32 0#64 State.reset).srcv = false ∧
    (issue 0x50000001#32 0#64 State.reset).cls = .noResult := by decide

/-- P4 step 6: ERR_WIDTH wins over the parse error. -/
theorem test_decerr_wide : (issue 0x50000001#32 0#64 (customState 63#6 1#6 0#64)).status = .errWidth := by decide

/-- V-ENCERR-3: STATUS alone, under a wide layout too. -/
theorem test_encerr : (issue 0x60000000#32 0#64 (customState 40#6 30#6 7#64)) =
    { customState 40#6 30#6 7#64 with status := .errFloat, cmdq := { word := 0x60000000#32, data := 0#64 } } := by
  decide

/-- V-ILL-2. -/
theorem test_illegal_word : (issue 0xFFFFFFFF#32 0xFFFFFFFFFFFFFFFF#64 State.reset).status = .errCmd := by decide

/-- I1: the reference without the carry gives 0x38 for 1.96875 under (4, 3). -/
theorem test_reference_without_carry : refEncodeWithoutCarry 0x3FFF800000000000#64 4 3 = 0x38#64 := by decide

/-- 2.4: o_region of (2, 1). -/
theorem test_region : regionPort 2 1 = 0xE9#128 := by decide

/-- R133. -/
theorem test_shown_errors :
    shown { State.reset with status := .errHex } = .text "Invalid hex input" ∧
    shown { State.reset with cls := .inf, sign := true } = .text "-inf" := by decide

/-- 2.5: P_LAT = 3, accepted at edge k and committed at edge k+2, the outputs old until then. -/
theorem test_latency_three :
    (nextOf (runEdges 2 { State.reset with pLatPred := 2, pins := [presentPins ⟨0x60000000#32, 0#64⟩] })).status = .ok ∧
    (nextOf (runEdges 2 { State.reset with pLatPred := 2, pins := [presentPins ⟨0x60000000#32, 0#64⟩] })).busy = true ∧
    (nextOf (runEdges 3 { State.reset with pLatPred := 2, pins := [presentPins ⟨0x60000000#32, 0#64⟩] })).status
      = .errFloat ∧
    (nextOf (runEdges 3 { State.reset with pLatPred := 2, pins := [presentPins ⟨0x60000000#32, 0#64⟩] })).busy
      = false := by decide

/-- Log entry 5: the placed word runs at the very next step, for P_LAT = 1 and for P_LAT = 3. -/
theorem test_placed_word_runs :
    (nextOf (step (State.reset.withFetchWord 32 0x60000000))).status = .errFloat ∧
    (nextOf (step (State.withFetchWord { State.reset with pLatPred := 2 } 32 0x60000000))).status = .errFloat := by
  decide

/-! ## Witnesses: the hypotheses of each statement can be met -/

/-- An edge with reset asserted. -/
def resetPins : Pins := { rst := true, cmdValid := true, cmdWord := 0x60000000#32, cmdData := 0#64 }

/-- A unit of P_LAT = 3 with ENCERR in flight and its commit edge next. -/
def committing : State :=
  { State.reset with pLatPred := 2, busy := true, edgesLeft := 1, cmdq := ⟨0x60000000#32, 0#64⟩ }

theorem witness_ResetEdge :
    ({ State.reset with pins := [resetPins], busy := true, status := .errCmd } : State).nextPins.rst = true := by decide

theorem witness_StepRuns_accept : ∃ (s : State) (p : Pins), s.pins = p :: [] ∧ p.rst = false ∧ p.cmdValid = true ∧
    s.busy = false ∧ s.pLatPred = 0 ∧ decodeCommand { word := p.cmdWord, data := p.cmdData } = .ok .encerr :=
  ⟨{ State.reset with pins := [presentPins ⟨0x60000000#32, 0#64⟩] }, presentPins ⟨0x60000000#32, 0#64⟩, by decide⟩

theorem witness_StepRuns_commit : committing.nextPins.rst = false ∧ committing.busy = true ∧
    committing.edgesLeft ≤ 1 ∧ decodeCommand committing.cmdq = .ok .encerr := by decide

theorem witness_StepRuns_illegal : ∃ s : State, s.nextPins.rst = false ∧ s.busy = true ∧ s.edgesLeft ≤ 1 ∧
    decodeCommand s.cmdq = .error (.illegalOpcode 7#4) :=
  ⟨{ committing with cmdq := ⟨0x70000000#32, 0#64⟩ }, by decide⟩

theorem witness_PlacedWord : decodeTableWord 32 0x10000001 = some (.setfmt 1#4) := by decide

theorem witness_StepRuns_accept_illegal : ∃ (s : State) (p : Pins), s.pins = p :: [] ∧ p.rst = false ∧
    p.cmdValid = true ∧ s.busy = false ∧ s.pLatPred = 0 ∧
    decodeCommand { word := p.cmdWord, data := p.cmdData } = .error (.illegalOpcode 7#4) :=
  ⟨{ State.reset with pins := [presentPins ⟨0x70000000#32, 0#64⟩] }, presentPins ⟨0x70000000#32, 0#64⟩, by decide⟩

/-- P_LAT = 1 and P_LAT = 2, the boundary of the two accepting clauses. -/
theorem witness_Acceptance_accept :
    (∃ (s : State) (p : Pins), s.pins = p :: [] ∧ p.rst = false ∧ p.cmdValid = true ∧ s.busy = false ∧ s.pLat = 1) ∧
    (∃ (s : State) (p : Pins), s.pins = p :: [] ∧ p.rst = false ∧ p.cmdValid = true ∧ s.busy = false ∧
      s.pLat = 2) :=
  ⟨⟨{ State.reset with pins := [presentPins ⟨0x60000000#32, 0#64⟩] }, presentPins ⟨0x60000000#32, 0#64⟩, by decide⟩,
    ⟨{ State.reset with pLatPred := 1, pins := [presentPins ⟨0x60000000#32, 0#64⟩] },
      presentPins ⟨0x60000000#32, 0#64⟩, by decide⟩⟩

theorem witness_Acceptance_reset : resetPins.rst = true ∧ ({ idlePins with rst := true } : Pins).rst = true := by decide

theorem witness_Acceptance_idle : ∃ (s : State) (p : Pins), s.pins = p :: [] ∧ p.rst = false ∧ p.cmdValid = false ∧
    s.busy = false := ⟨{ State.reset with pins := [idlePins] }, idlePins, by decide⟩

/-- A busy unit at its commit edge, and one edge before it, which stays busy. -/
theorem witness_Acceptance_busy : idlePins.rst = false ∧ (presentPins ⟨0x10000001#32, 0#64⟩).rst = false ∧
    committing.busy = true ∧
    ∃ t, step { committing with edgesLeft := 2, pins := [idlePins] } = .next t ∧ t.busy = true :=
  ⟨rfl, rfl, rfl, _, rfl, rfl⟩

/-- P_LAT = 3, the boundaries j = 1 and j = P_LAT - 1. -/
theorem witness_CommandCommits : ∃ (s : State) (c : Command) (q : List Pins), s.busy = false ∧
    s.pins = presentPins c :: (q ++ []) ∧ q.length = s.pLat - 1 ∧ NoReset q ∧
    1 ≤ 1 ∧ 1 ≤ s.pLat - 1 ∧ 2 ≤ s.pLat - 1 :=
  ⟨{ State.reset with pLatPred := 2, pins := [presentPins ⟨0x60000000#32, 0#64⟩, idlePins, idlePins] },
    ⟨0x60000000#32, 0#64⟩, [idlePins, idlePins], by unfold NoReset; decide⟩

theorem witness_QueueKeeps :
    (State.reset.nextPins.rst = false ∧ State.reset.nextPins.cmdValid = false ∧ State.reset.busy = false) ∧
    (committing.nextPins.rst = false ∧ committing.busy = true) := by decide

/-- P_LAT = 2: SETFMT at once, then an idle ready edge, ENCERR, and an idle ready edge at the end. -/
theorem witness_CommandsInOrder : ∃ (s : State) (xs : List Presented) (gap : List Pins), xs.length = 2 ∧
    s.busy = false ∧ (∀ x ∈ xs, x.Fits s.pLat) ∧ Quiet gap ∧ s.pins = schedule xs ++ (gap ++ []) :=
  ⟨{ State.reset with
      pLatPred := 1
      pins := [presentPins ⟨0x10000001#32, 0#64⟩, presentPins ⟨0x60000000#32, 0#64⟩, idlePins,
        presentPins ⟨0x60000000#32, 0#64⟩, idlePins, idlePins] },
    [⟨[], ⟨0x10000001#32, 0#64⟩, [presentPins ⟨0x60000000#32, 0#64⟩]⟩,
      ⟨[idlePins], ⟨0x60000000#32, 0#64⟩, [idlePins]⟩],
    [idlePins], by unfold Presented.Fits Quiet NoReset; decide⟩

/-- A command accepted with P_LAT = 2, and one in flight with two edges to go. -/
theorem witness_OutputsChangeOnly :
    (∃ s : State, s.nextPins.rst = false ∧ ¬ (s.busy = true ∧ s.edgesLeft ≤ 1) ∧
      ¬ (s.busy = false ∧ s.nextPins.cmdValid = true ∧ s.pLat = 1) ∧ s.nextPins.cmdValid = true) ∧
    (∃ s : State, s.nextPins.rst = false ∧ ¬ (s.busy = true ∧ s.edgesLeft ≤ 1) ∧
      ¬ (s.busy = false ∧ s.nextPins.cmdValid = true ∧ s.pLat = 1) ∧ s.busy = true) :=
  ⟨⟨{ State.reset with pLatPred := 1, pins := [presentPins ⟨0x60000000#32, 0#64⟩] }, by decide⟩,
    ⟨{ committing with edgesLeft := 2 }, by decide⟩⟩

theorem witness_CommandQueue : State.reset.busy = false := by decide

theorem reset_preset (e m : BitVec 6) (h : preset State.reset.fmt = some (e, m)) :
    State.reset.layE = e ∧ State.reset.layM = m := by
  have h' : (8#6, 23#6) = (e, m) := Option.some.inj h
  exact ⟨congrArg Prod.fst h', congrArg Prod.snd h'⟩

/-- A state a run reaches with P_LAT = 3, a parse error pending and a command in flight, meets the invariant. -/
theorem witness_StepKeeps : ∃ s t : State, Inv s ∧ step s = .next t ∧ s.busy = true := by
  refine ⟨{ committing with srcv := false, status := .errHex, cls := .noResult, exp2 := 0#64 }, _, ?_, rfl, rfl⟩
  exact
    { fmtLegal := by decide
      layEPositive := by decide
      presetLayout := reset_preset
      bitsFit := by decide
      pendingBits := by decide
      consistent := .inl (.inr (.inr (by decide)))
      inFlight := by decide }

theorem witness_DecodingAgrees : decodeCommand ⟨0xFFFFC8D7#32 &&& 0x2FFFFFFF#32, 5#64⟩ = .ok (.setlay 8#6 23#6) := by
  decide

/-- OP 7, the least illegal one; OP 6 is legal. -/
theorem witness_IllegalOpcode : 7 ≤ ((0x7ABCDEF0#32).extractLsb' 28 4).toNat ∧
    ¬ 7 ≤ ((0x6ABCDEF0#32).extractLsb' 28 4).toNat := by decide

theorem witness_LayoutLine : ∀ e m, AsmLine.nop ≠ .layout e m := by decide

/-- The least refused tag. -/
theorem witness_Setfmt : 8 < (9#4).toNat ∧ ¬ 8 < (8#4).toNat := by decide

theorem witness_Setlay :
    (State.reset.fmt ≠ 8#4 ∨ (8#6) = 0#6) ∧ ((customState 8#6 23#6 0#64).fmt ≠ 8#4 ∨ (0#6) = 0#6) ∧
    ((customState 8#6 23#6 0#64).fmt = 8#4 ∧ (1#6) ≠ 0#6) := by decide

/-- total = 64 and total = 65, the boundary of DECODE, ENCODE and DECERR. -/
theorem witness_total_boundary :
    (customState 63#6 0#6 0#64).total ≤ 64 ∧ 64 < (customState 63#6 1#6 0#64).total := by decide

theorem witness_OtherErrors : ∃ (c : Command) (s t : State), runCommand c s = .next t ∧ t.status = .errLayout :=
  ⟨⟨0x2000050A#32, 0#64⟩, State.reset, _, rfl, rfl⟩

theorem witness_StatusTells :
    (∃ t, exec (.decerr .bin) State.reset = .next t ∧ t.status = .errBin) ∧
    (∃ t, exec (.decode 1#64) (customState 63#6 1#6 0#64) = .next t ∧ t.status = .errWidth) ∧
    (∃ t, exec (.decode 1#64) State.reset = .next t ∧ t.status = .ok) :=
  ⟨⟨_, rfl, by decide⟩, ⟨_, rfl, by decide⟩, ⟨_, rfl, by decide⟩⟩

theorem witness_OnlyTheNamed : ∃ t, exec (.setfmt 1#4) State.reset = .next t ∧ t.fmt ≠ State.reset.fmt :=
  ⟨_, rfl, by decide⟩

theorem witness_OnlyReserved :
    Instr.wellFormed (.setlay 0#6 0#6) = false ∧
    (Instr.wellFormed (.setlay 1#6 0#6) = true ∧ (customState 8#6 0#6 0#64).fmt = 8#4) := by decide

/-- Legal layouts at the ends of the range: total = 2, total = 64 with M = 0, total = 64 with E = 1. -/
theorem witness_LegalLayout : LegalLayout 1 0 ∧ LegalLayout 63 0 ∧ LegalLayout 1 62 ∧ ¬ LegalLayout 63 1 := by
  unfold LegalLayout totalBits
  decide

/-- The branches of DEC_CORE under Fp16: infinity, NaN, the largest finite value, a subnormal. -/
theorem witness_DecCore_branches :
    (expField 0x7C00#64 5 10 = 2 ^ 5 - 1 ∧ mantField 0x7C00#64 10 = 0) ∧
    (expField 0x7C01#64 5 10 = 2 ^ 5 - 1 ∧ mantField 0x7C01#64 10 ≠ 0) ∧
    (expField 0x7BFF#64 5 10 ≠ 2 ^ 5 - 1 ∧ (decCore 0x7BFF#64 5 10).cls = .number) ∧
    (expField 0x03FF#64 5 10 = 0 ∧ (decCore 0x03FF#64 5 10).cls = .number) := by decide

theorem witness_DecCore_fields : (0 : Nat) = ((0x7C00#64).toNat >>> (1 + 5 + 10 - 1)) &&& 1 ∧
    31 = ((0x7C00#64).toNat >>> 10) &&& (2 ^ 5 - 1) ∧ 0 = (0x7C00#64).toNat &&& (2 ^ 10 - 1) := by decide

theorem witness_NoMantissa : (decCore 0x7F#64 8 0).cls = .number ∧ expField 0x7F#64 8 0 ≠ 0 ∧
    (decCore 0x100#64 8 0).cls = .number ∧ expField 0x100#64 8 0 = 0 := by decide

theorem witness_OneExponentBit : (decCore 0x3#64 1 2).cls = .number ∧ (decCore 0x4#64 1 2).cls ≠ .number := by decide

theorem witness_ValueIsExact : LegalLayout 11 52 ∧ (decCore 0x7FEFFFFFFFFFFFFF#64 11 52).cls = .number := by
  unfold LegalLayout totalBits
  decide

theorem scaled_one (t : Int) : scaled 1 t = (2 : ℚ) ^ t := by simp [scaled]

/-- The exact value of a binary64 word from its fields. -/
theorem f64Value_of_fields (v : Word64) (s : Bool) (m : Nat) (t : Int) (hs : f64Sign v = s) (hm : f64Sig v = m)
    (ht : f64Exp v = t) : f64Value v = withSign s (scaled m t) := by rw [f64Value, hs, hm, ht]

/-- 2^1024 overflows, 1 does not. -/
theorem witness_RoundF64_range : (2 : ℚ) ^ 1024 - (2 : ℚ) ^ 970 ≤ scaled 1 1024 ∧
    scaled 1 0 < (2 : ℚ) ^ 1024 - (2 : ℚ) ^ 970 := by
  have h : (2 : ℚ) ^ 1024 = (2 : ℚ) ^ 970 * 2 ^ 54 := by rw [← pow_add]
  have h1 : (1 : ℚ) ≤ (2 : ℚ) ^ 970 := one_le_pow₀ (by norm_num)
  rw [scaled_one, scaled_one, zpow_zero, show ((2 : ℚ) ^ (1024 : ℤ)) = (2 : ℚ) ^ 1024 from zpow_natCast 2 1024]
  generalize (2 : ℚ) ^ 1024 = y at *
  generalize (2 : ℚ) ^ 970 = x at *
  norm_num at h
  constructor <;> linarith

/-- The tie 2^53 + 1 between 2^53 and 2^53 + 2. -/
theorem witness_RoundF64_tie :
    F64Finite 0x4340000000000001#64 ∧ roundF64 false (2 ^ 53 + 1) 0 = 0x4340000000000000#64 ∧
    |f64Value 0x4340000000000000#64 - withSign false (scaled (2 ^ 53 + 1) 0)| =
      |f64Value 0x4340000000000001#64 - withSign false (scaled (2 ^ 53 + 1) 0)| ∧
    f64Value 0x4340000000000001#64 ≠ f64Value 0x4340000000000000#64 := by
  rw [f64Value_of_fields 0x4340000000000000#64 false (2 ^ 52) 1 (by decide) (by decide) (by decide),
    f64Value_of_fields 0x4340000000000001#64 false (2 ^ 52 + 1) 1 (by decide) (by decide) (by decide)]
  refine ⟨by unfold F64Finite; decide, by decide, ?_, ?_⟩ <;> norm_num [withSign, scaled]

theorem witness_Primitives : (0 : Nat) < 3 := by decide

/-- Operands of each kind: NaN, infinity, zero, normal, binary64 subnormal. -/
theorem witness_operand_kinds :
    f64IsNaN 0xFFF0000000000001#64 = true ∧ f64IsInf 0xFFF0000000000000#64 = true ∧
    f64IsZero 0x8000000000000000#64 = true ∧
    (f64IsZero 0x3FF8000000000000#64 = false ∧ f64Ev 0x3FF8000000000000#64 ≠ 0 ∧ f64Ev 0x3FF8000000000000#64 ≠ 2047) ∧
    (f64IsZero 0x0000000000000001#64 = false ∧ f64Ev 0x0000000000000001#64 = 0) := by decide

/-- 1.5 under Fp16, on the normal path with exp = 0. -/
theorem witness_EncCore_normal : F64Finite 0x3FF8000000000000#64 ∧
    (2 : ℚ) ^ (0 : ℤ) ≤ |f64Value 0x3FF8000000000000#64| ∧ |f64Value 0x3FF8000000000000#64| < (2 : ℚ) ^ ((0 : ℤ) + 1) ∧
    (0 : ℤ) ≤ 2 ^ 5 - 2 - (2 ^ (5 - 1) - 1) ∧ ¬ (0 : ℤ) < 1 - (2 ^ (5 - 1) - 1) := by
  rw [f64Value_of_fields 0x3FF8000000000000#64 false (2 ^ 52 + 2 ^ 51) (-52) (by decide) (by decide) (by decide)]
  refine ⟨by unfold F64Finite; decide, ?_, ?_, by decide, by decide⟩ <;> norm_num [withSign, scaled]

/-- 2^-15 under Fp16, the largest exponent on the subnormal path. -/
theorem witness_EncCore_subnormal : F64Finite 0x3F00000000000000#64 ∧
    (2 : ℚ) ^ (-15 : ℤ) ≤ |f64Value 0x3F00000000000000#64| ∧
    |f64Value 0x3F00000000000000#64| < (2 : ℚ) ^ ((-15 : ℤ) + 1) ∧ (-15 : ℤ) < 1 - (2 ^ (5 - 1) - 1) := by
  rw [f64Value_of_fields 0x3F00000000000000#64 false (2 ^ 52) (-67) (by decide) (by decide) (by decide)]
  refine ⟨by unfold F64Finite; decide, ?_, ?_, by decide⟩ <;> norm_num [withSign, scaled]

/-- 65536 under Fp16, the least power of two above max_exp. -/
theorem witness_Overflow : F64Finite 0x40F0000000000000#64 ∧ f64IsZero 0x40F0000000000000#64 = false ∧
    maxExp 5 < ilog2 (f64Sig 0x40F0000000000000#64) (f64Exp 0x40F0000000000000#64) ∧
    (2 : ℤ) ^ 5 - 2 - (2 ^ (5 - 1) - 1) < 16 := by
  unfold F64Finite
  decide

/-- 65520 is the overflow threshold of Fp16; 1.5 lies below it. -/
theorem witness_Nearest : F64Finite 0x3FF8000000000000#64 ∧ |f64Value 0x3FF8000000000000#64| < overflowThreshold 5 10 ∧
    overflowThreshold 5 10 ≤ |f64Value 0x40EFFE0000000000#64| ∧ (decCore 0x7BFF#64 5 10).cls = .number := by
  have hs : largestSig 5 10 = 2047 := by decide
  have he : largestExp2 5 10 = 5 := by decide
  rw [overflowThreshold, hs, he,
    f64Value_of_fields 0x3FF8000000000000#64 false (2 ^ 52 + 2 ^ 51) (-52) (by decide) (by decide) (by decide),
    f64Value_of_fields 0x40EFFE0000000000#64 false (2 ^ 53 - 2 ^ 41) (-37) (by decide) (by decide) (by decide)]
  refine ⟨by unfold F64Finite; decide, ?_, ?_, by decide⟩ <;> norm_num [withSign, scaled]

/-- 1.0 under Fp16: a NUMBER with an exact VALUE. -/
theorem witness_RoundTrip_number : (0x3C00#64).toNat < 2 ^ (1 + 5 + 10) ∧ (decCore 0x3C00#64 5 10).cls = .number ∧
    F64Finite (decCore 0x3C00#64 5 10).value ∧
    f64Value (decCore 0x3C00#64 5 10).value = (decCore 0x3C00#64 5 10).exactValue := by
  have hd : decCore 0x3C00#64 5 10 =
      { cls := .number, sign := false, value := 0x3FF0000000000000#64, sig := 0x400#64,
        exp2 := BitVec.ofInt 64 (-10), pba := 0x3C#64 } := by decide
  have h10 : (BitVec.ofInt 64 (-10)).toInt = -10 := by decide
  rw [hd, f64Value_of_fields 0x3FF0000000000000#64 false (2 ^ 52) (-52) (by decide) (by decide) (by decide)]
  refine ⟨by decide, rfl, by unfold F64Finite; decide, ?_⟩
  simp only [Decoded.exactValue, withSign, h10]
  norm_num [scaled]

theorem witness_RoundTrip_specials : (decCore 0xFC00#64 5 10).cls = .inf ∧ (decCore 0x7C01#64 5 10).cls = .nan ∧
    (0x7C01#64).toNat < 2 ^ (1 + 5 + 10) := by decide

theorem witness_BiasPort : State.reset.layE ≠ 0#6 := by decide

/-- Each region of Fp32 at its ends: 0, 1 and E, E+1 and E+M, total. -/
theorem witness_Region : 1 ≤ 8 ∧ 8 ≤ State.reset.layE.toNat ∧ State.reset.layE.toNat + 1 ≤ 9 ∧
    31 ≤ State.reset.layE.toNat + State.reset.layM.toNat ∧
    1 + State.reset.layE.toNat + State.reset.layM.toNat ≤ 32 := by decide

end Sys2Proof.Tests
end

section
/-! The output ports and the state after reset (10_state.md R43 to R48, R51): first the rules of the ports and of an
edge, then the statements. -/

namespace Sys2Proof.Machine

/-! ### The ports -/

theorem bitPort_eq_ite (b : Bool) : bitPort b = if b then 1#1 else 0#1 := by cases b <;> rfl

theorem bitPort_eq_one_iff (b : Bool) : bitPort b = 1#1 ↔ b = true := by cases b <;> decide

theorem parseBaseCode_eq_ite (b : ParseBase) : parseBaseCode b = if b = .bin then 1#1 else 0#1 := by cases b <;> rfl

theorem outputs_cmdReady (s : State) : (outputs s).cmdReady = if s.busy then 0#1 else 1#1 := by
  change bitPort (!s.busy) = _
  cases s.busy <;> rfl

@[simp] theorem outputs_takePins (s : State) : outputs s.takePins = outputs s := rfl

@[simp] theorem outputs_with_cmdq (s : State) (c : Command) : outputs { s with cmdq := c } = outputs s := rfl

/-- 7 bits hold every total: two 6-bit widths and the sign. -/
theorem total_lt (s : State) : s.total < 2 ^ 7 := by
  have hE : s.widthE < 64 := s.layE.isLt
  have hM : s.widthM < 64 := s.layM.isLt
  unfold State.total totalBits
  omega

/-- The bias of every width that 6 bits hold, 0 to 63, is at most 2^62 - 1 (R44). -/
theorem bias_le (e : BitVec 6) : bias e.toNat ≤ 2 ^ 62 - 1 := by
  have he : e.toNat < 64 := e.isLt
  have hp : 2 ^ (e.toNat - 1) ≤ 2 ^ 62 := Nat.pow_le_pow_right (by norm_num) (by omega)
  exact Nat.sub_le_sub_right hp 1

/-! ### The region port (R45): a number in base 4 whose digit i is the region code of index i -/

theorem regionCode_lt (E M i : Nat) : regionCode E M i < 4 := by
  unfold regionCode
  split_ifs <;> omega

theorem regionCode_sign (E M : Nat) : regionCode E M 0 = 1 := rfl

theorem regionCode_exponent {E i : Nat} (M : Nat) (h1 : 1 ≤ i) (hE : i ≤ E) : regionCode E M i = 2 := by
  rw [regionCode, if_neg (by omega), if_pos hE]

theorem regionCode_mantissa {E M i : Nat} (hE : E + 1 ≤ i) (hM : i ≤ E + M) : regionCode E M i = 3 := by
  rw [regionCode, if_neg (by omega), if_neg (by omega), if_pos hM]

theorem regionCode_none {E M i : Nat} (h : 1 + E + M ≤ i) : regionCode E M i = 0 := by
  rw [regionCode, if_neg (by omega), if_neg (by omega), if_neg (by omega)]

theorem regionUpTo_lt (E M n : Nat) : regionUpTo E M n < 4 ^ n := by
  induction n with
  | zero => exact Nat.one_pos
  | succ n ih =>
    have hc : regionCode E M n * 4 ^ n ≤ 3 * 4 ^ n :=
      Nat.mul_le_mul_right _ (Nat.le_of_lt_succ (regionCode_lt E M n))
    rw [regionUpTo, pow_succ]
    omega

theorem regionUpTo_digit (E M : Nat) {n i : Nat} (hi : i < n) : regionUpTo E M n / 4 ^ i % 4 = regionCode E M i := by
  induction n with
  | zero => omega
  | succ n ih =>
    rw [regionUpTo]
    rcases Nat.lt_succ_iff_lt_or_eq.1 hi with h | rfl
    · -- the digit added at n is a multiple of 4 · 4^i
      obtain ⟨k, rfl⟩ : ∃ k, n = i + (k + 1) := ⟨n - i - 1, by omega⟩
      have hd : regionCode E M (i + (k + 1)) * 4 ^ (i + (k + 1)) =
          4 ^ i * (4 * (regionCode E M (i + (k + 1)) * 4 ^ k)) := by ring
      rw [hd, Nat.add_mul_div_left _ _ (by positivity), Nat.add_mul_mod_self_left]
      exact ih h
    · -- the digits below i are less than 4^i
      rw [Nat.add_mul_div_right _ _ (by positivity), Nat.div_eq_of_lt (regionUpTo_lt E M i), Nat.zero_add]
      exact Nat.mod_eq_of_lt (regionCode_lt E M i)

theorem regionPort_toNat (E M : Nat) : (regionPort E M).toNat = regionUpTo E M 64 := by
  have h : regionUpTo E M 64 < 2 ^ 128 := regionUpTo_lt E M 64
  rw [regionPort, BitVec.toNat_ofNat, Nat.mod_eq_of_lt h]

/-- The 2 bits of o_region at index i are the region code of index i (R45). -/
theorem regionPort_extract (E M : Nat) {i : Nat} (hi : i < 64) :
    (regionPort E M).extractLsb' (2 * i) 2 = BitVec.ofNat 2 (regionCode E M i) := by
  apply BitVec.eq_of_toNat_eq
  rw [BitVec.extractLsb'_toNat, BitVec.toNat_ofNat, regionPort_toNat, Nat.shiftRight_eq_div_pow, pow_mul,
    ← regionUpTo_digit E M hi]
  exact (Nat.mod_mod _ _).symm

/-! ### Edges -/

/-- An edge that is neither a reset edge nor a commit edge shows the old outputs, cmd_ready excepted (R48). -/
theorem edge_outputs_of_no_commit (p : Pins) (s : State) (hr : p.rst = false)
    (hcommit : ¬ (s.busy = true ∧ s.edgesLeft ≤ 1))
    (haccept : ¬ (s.busy = false ∧ p.cmdValid = true ∧ s.pLat = 1)) :
    ∃ t, edge p s = .next t ∧ outputs t = { outputs s with cmdReady := (outputs t).cmdReady } := by
  rcases edge_cases p s with ⟨h, -⟩ | ⟨-, hb, hl, -⟩ | ⟨-, -, -, e⟩ | ⟨-, hb, hv, e⟩ | ⟨-, -, -, e⟩
  · simp [hr] at h
  · exact absurd ⟨hb, hl⟩ hcommit
  · exact ⟨_, e, rfl⟩
  · rcases accept_cases p.command s with ⟨h0, -⟩ | ⟨-, a⟩
    · exact absurd ⟨hb, hv, congrArg (· + 1) h0⟩ haccept
    · exact ⟨_, e.trans a, rfl⟩
  · exact ⟨_, e, rfl⟩

/-- Acceptance overwrites CMDQ before anything reads it (R37). -/
theorem accept_with_cmdq (c d : Command) (s : State) : accept c { s with cmdq := d } = accept c s := rfl

theorem accept_total (c : Command) (s : State) : ∃ t, accept c s = .next t := by
  rcases accept_cases c s with ⟨-, e⟩ | ⟨-, e⟩
  · rw [e]
    exact runCommand_total _ _
  · exact ⟨_, e⟩

theorem edge_of_rst {p : Pins} (s : State) (hr : p.rst = true) : edge p s = .next (applyReset s) := by
  simp [edge, hr]

theorem edge_of_presented {p : Pins} {s : State} (hr : p.rst = false) (hb : s.busy = false) (hv : p.cmdValid = true) :
    edge p s = accept p.command s := by simp [edge, hr, hb, hv]

theorem edge_of_idle {p : Pins} {s : State} (hr : p.rst = false) (hb : s.busy = false) (hv : p.cmdValid = false) :
    edge p s = .next s := by simp [edge, hr, hb, hv]

/-- While BUSY = 0 an edge does not read CMDQ: whatever it held, the next state is the same but for CMDQ (R37). -/
theorem edge_with_cmdq_of_ready (p : Pins) (s : State) (c : Command) (hb : s.busy = false) :
    ∃ t d, edge p s = .next t ∧ edge p { s with cmdq := c } = .next { t with cmdq := d } := by
  cases hr : p.rst with
  | true => exact ⟨_, State.reset.cmdq, edge_of_rst s hr, edge_of_rst _ hr⟩
  | false =>
    cases hv : p.cmdValid with
    | true =>
      obtain ⟨t, ht⟩ := accept_total p.command s
      exact ⟨t, t.cmdq, (edge_of_presented hr hb hv).trans ht,
        (edge_of_presented (s := { s with cmdq := c }) hr hb hv).trans ((accept_with_cmdq p.command c s).trans ht)⟩
    | false => exact ⟨s, c, edge_of_idle hr hb hv, edge_of_idle hr hb hv⟩

/-! ### The statements -/

/-- Settles O9: the ports by their definitions, and no effect on the outputs by `edge_outputs_of_no_commit`. -/
theorem outputsChangeOnlyAtCommitOrReset : Obligations.OutputsChangeOnlyAtCommitOrReset := by
  unfold Obligations.OutputsChangeOnlyAtCommitOrReset
  have hstatus (s : State) (c : Status) (h : s.status = c) : (outputs s).oStatus = c.code := congrArg Status.code h
  have hcls (s : State) (c : DecClass) (h : s.cls = c) : (outputs s).oClass = c.code := congrArg DecClass.code h
  refine ⟨fun s => ?_, fun s => ?_, fun s => ?_, outputs_cmdReady, fun s hr hcommit haccept => ?_⟩
  · exact ⟨rfl, rfl, rfl, rfl, bitPort_eq_ite _, parseBaseCode_eq_ite _, bitPort_eq_ite _, rfl, rfl, rfl, rfl⟩
  · exact ⟨hstatus s _, hstatus s _, hstatus s _, hstatus s _, hstatus s _, hstatus s _, hstatus s _⟩
  · exact ⟨hcls s _, hcls s _, hcls s _, hcls s _⟩
  · exact edge_outputs_of_no_commit s.nextPins s.takePins hr hcommit haccept

/-- Settles O53: index i of the port is digit i of `regionUpTo`, whose code the ranges of i fix. -/
theorem regionPortNamesTheFields : Obligations.RegionPortNamesTheFields := by
  intro s i hi
  have key : (outputs s).oRegion.extractLsb' (2 * i) 2 = BitVec.ofNat 2 (regionCode s.layE.toNat s.layM.toNat i) :=
    regionPort_extract _ _ hi
  rw [key]
  refine ⟨?_, fun h1 hE => ?_, fun hE hM => ?_, fun h => ?_⟩
  · rintro rfl
    rw [regionCode_sign]
  · rw [regionCode_exponent _ h1 hE]
  · rw [regionCode_mantissa hE hM]
  · rw [regionCode_none h]

/-- Settles O1: the values by evaluation, and CMDQ because a ready edge does not read it. -/
theorem resetStateHoldsTheSpecValues : Obligations.ResetStateHoldsTheSpecValues := by
  refine ⟨rfl, rfl, rfl, rfl, rfl, rfl, rfl, rfl, rfl, rfl, rfl, by decide, rfl, rfl, rfl, fun c p => ?_⟩
  obtain ⟨t, d, ht, hu⟩ := edge_with_cmdq_of_ready p State.reset c rfl
  exact ⟨t, _, ht, hu, (outputs_with_cmdq t d).symm⟩

/-- Settles O51: total fits the 7 bits of its port, and WIDE is total above 64. -/
theorem totalAndWidePortsFollowTheLayout : Obligations.TotalAndWidePortsFollowTheLayout := fun s =>
  ⟨Nat.mod_eq_of_lt (total_lt s), (bitPort_eq_one_iff s.wide).trans (wide_iff s)⟩

/-- Settles O52: the bias of a 6-bit width fits the 64 bits of its port. -/
theorem biasPortCarriesTheBias : Obligations.BiasPortCarriesTheBias := by
  intro s _
  have hle : bias s.widthE ≤ 2 ^ 62 - 1 := bias_le s.layE
  have hport : (outputs s).oBias.toNat = bias s.widthE := Nat.mod_eq_of_lt (lt_of_le_of_lt hle (by norm_num))
  exact ⟨hport, hport.trans_le hle⟩

end Sys2Proof.Machine
end

section
/-! Commands in acceptance order (20_memory.md R70): runs of edges first, then the refinement. The clocked unit and the
commands applied with no time differ in the hidden state alone, which `State.withHidden` replaces. -/

namespace Sys2Proof.Machine

/-! ### Runs of edges -/

theorem step_of_pins {s : State} {p : Pins} {ps : List Pins} (hp : s.pins = p :: ps) :
    step s = edge p { s with pins := ps } := by
  rw [step, State.nextPins_cons s p ps hp, State.takePins, hp, List.tail_cons]

theorem runEdges_succ {s t : State} (n : Nat) (h : step s = .next t) : runEdges (n + 1) s = runEdges n t := by
  rw [runEdges, h]

/-- A run of m + n edges is a run of n edges from where the first m lead. -/
theorem runEdges_add {m : Nat} {s t : State} (n : Nat) (h : runEdges m s = .next t) :
    runEdges (m + n) s = runEdges n t := by
  induction m generalizing s with
  | zero =>
    cases h
    rw [Nat.zero_add]
  | succ m ih =>
    rw [runEdges] at h
    rw [Nat.succ_add, runEdges]
    cases hs : step s with
    | next r =>
      rw [hs] at h
      exact ih h
    | fault r => cases r
    | refused r =>
      rw [hs] at h
      cases h

/-- Ready edges at which the host presents nothing take the pins and change nothing else (R203). -/
theorem runEdges_quiet {qs ps : List Pins} {s : State} (hb : s.busy = false) (hq : Quiet qs)
    (hp : s.pins = qs ++ ps) : runEdges qs.length s = .next { s with pins := ps } := by
  induction qs generalizing s with
  | nil =>
    subst hp
    rfl
  | cons q qs ih =>
    obtain ⟨⟨hr, hv⟩, hq'⟩ := List.forall_mem_cons.1 hq
    have hs : step s = .next { s with pins := qs ++ ps } := (step_of_pins hp).trans (edge_of_idle hr hb hv)
    exact (runEdges_succ qs.length hs).trans (ih (s := { s with pins := qs ++ ps }) hb hq' rfl)

/-- The last edge of a command in flight is its commit edge (R204). -/
theorem edge_of_commit {p : Pins} {s : State} (hr : p.rst = false) (hb : s.busy = true) (hl : s.edgesLeft ≤ 1) :
    edge p s = commit s := by simp [edge, hr, hb, hl]

/-- An edge before the commit edge counts down and ignores the command port (R203, R204). -/
theorem edge_of_in_flight {p : Pins} {s : State} (hr : p.rst = false) (hb : s.busy = true) (hl : 1 < s.edgesLeft) :
    edge p s = .next { s with edgesLeft := s.edgesLeft - 1 } := by simp [edge, hr, hb, hl]

theorem runEdges_one (s : State) : runEdges 1 s = step s := by
  rw [runEdges]
  cases step s <;> rfl

/-- A command in flight with n + 1 edges to go commits at the last of them, whatever the host drives (R203, R204). -/
theorem runEdges_in_flight {q : Pins} {qs ps : List Pins} {s : State} (hb : s.busy = true) (hq : NoReset (q :: qs))
    (hl : s.edgesLeft = qs.length + 1) (hp : s.pins = q :: (qs ++ ps)) :
    runEdges (qs.length + 1) s = commit { s with pins := ps } := by
  induction qs generalizing q s with
  | nil =>
    have hr : q.rst = false := hq q List.mem_cons_self
    exact (runEdges_one s).trans ((step_of_pins hp).trans (edge_of_commit hr hb hl.le))
  | cons q' qs ih =>
    obtain ⟨hr, hq'⟩ := List.forall_mem_cons.1 hq
    rw [List.length_cons] at hl
    have hs : step s = .next { s with pins := q' :: (qs ++ ps), edgesLeft := s.edgesLeft - 1 } :=
      (step_of_pins hp).trans (edge_of_in_flight hr hb (by rw [hl]; omega))
    have hl' : s.edgesLeft - 1 = qs.length + 1 := by rw [hl, Nat.add_sub_cancel]
    exact (runEdges_succ _ hs).trans
      (ih (s := { s with pins := q' :: (qs ++ ps), edgesLeft := s.edgesLeft - 1 }) hb hq' hl' rfl)

/-- P_LAT edges from the accepting edge on run the presented command, whatever the host drives while the unit is busy
(R203, R204). -/
theorem runEdges_presented {s : State} {c : Command} {qs ps : List Pins} (hb : s.busy = false) (hq : NoReset qs)
    (hl : qs.length = s.pLatPred) (hp : s.pins = presentPins c :: (qs ++ ps)) :
    runEdges (qs.length + 1) s = runCommand c { s with cmdq := c, pins := ps, edgesLeft := 0 } := by
  have hs : step s = accept c { s with pins := qs ++ ps } := (step_of_pins hp).trans (edge_of_presented rfl hb rfl)
  have hcommit (b : Bool) (n : Nat) : commit { s with cmdq := c, busy := b, edgesLeft := n, pins := ps } =
      runCommand c { s with cmdq := c, pins := ps, edgesLeft := 0 } := by rw [commit, ← hb]
  rcases accept_cases c { s with pins := qs ++ ps } with ⟨h0, e⟩ | ⟨h0, e⟩
  · obtain rfl : qs = [] := List.eq_nil_of_length_eq_zero (hl.trans h0)
    exact (runEdges_one s).trans (hs.trans (e.trans (hcommit s.busy s.edgesLeft)))
  · cases qs with
    | nil => exact absurd hl.symm h0
    | cons q qs =>
      rw [List.length_cons, runEdges_succ _ (hs.trans e), runEdges_in_flight rfl hq hl.symm rfl]
      exact hcommit true s.pLatPred

/-! ### Commands with no time -/

theorem applyCommands_cons {c : Command} {cs : List Command} {s t : State} (h : runCommand c s = .next t) :
    applyCommands (c :: cs) s = applyCommands cs t := by rw [applyCommands, h]

theorem runCommand_busy {c : Command} {s t : State} (h : runCommand c s = .next t) : t.busy = s.busy := by
  have hb : (t.withHidden s).busy = t.busy := congrArg State.busy (runCommand_hidden c s t h)
  exact hb.symm

/-- Commands applied with no time answer a state, and none is in flight there unless one was (R185). -/
theorem applyCommands_total (cs : List Command) (s : State) :
    ∃ t, applyCommands cs s = .next t ∧ t.busy = s.busy := by
  induction cs generalizing s with
  | nil => exact ⟨s, rfl, rfl⟩
  | cons c cs ih =>
    obtain ⟨r, hr⟩ := runCommand_total c s
    obtain ⟨t, ht, hb⟩ := ih r
    exact ⟨t, (applyCommands_cons hr).trans ht, hb.trans (runCommand_busy hr)⟩

theorem outputs_withHidden {s h : State} (hb : h.busy = s.busy) : outputs (s.withHidden h) = outputs s := by
  unfold State.withHidden
  rw [hb]
  rfl

/-! ### The refinement -/

theorem schedule_cons (x : Presented) (xs : List Presented) :
    schedule (x :: xs) = x.gap ++ presentPins x.command :: (x.busyPins ++ schedule xs) := by
  rw [schedule, List.flatMap_cons, List.append_assoc, List.cons_append, schedule]

/-- The edges around one command lead from a ready state to a ready state whose output registers are those of the
command applied with no time. -/
theorem runEdges_command {x : Presented} {u v h : State} {ps : List Pins} (hb : h.busy = false) (hx : x.Fits h.pLat)
    (hp : h.pins = x.gap ++ presentPins x.command :: (x.busyPins ++ ps)) (hc : runCommand x.command u = .next v) :
    runEdges (x.gap.length + (x.busyPins.length + 1)) (u.withHidden h) =
      .next (v.withHidden { h with cmdq := x.command, pins := ps, edgesLeft := 0 }) := by
  obtain ⟨hgap, hbusy, hlen⟩ := hx
  have hquiet := runEdges_quiet (s := u.withHidden h) hb hgap hp
  have hpresented := runEdges_presented (qs := x.busyPins) (ps := ps)
    (s := u.withHidden { h with pins := presentPins x.command :: (x.busyPins ++ ps) }) hb hbusy hlen rfl
  have hcommand := runCommand_withHidden x.command { h with cmdq := x.command, pins := ps, edgesLeft := 0 } u v hc
  exact (runEdges_add _ hquiet).trans (hpresented.trans hcommand)

/-- The edges of a schedule lead from a ready state to a ready state whose output registers are those of the commands
applied in order with no time. -/
theorem runEdges_schedule {xs : List Presented} {u v h : State} {ps : List Pins} (hb : h.busy = false)
    (hx : ∀ x ∈ xs, x.Fits h.pLat) (hp : h.pins = schedule xs ++ ps)
    (hc : applyCommands (xs.map Presented.command) u = .next v) :
    ∃ h', runEdges (schedule xs).length (u.withHidden h) = .next (v.withHidden h') ∧ h'.busy = false ∧
      h'.pins = ps := by
  induction xs generalizing u h with
  | nil =>
    cases hc
    exact ⟨h, rfl, hb, hp⟩
  | cons x xs ih =>
    obtain ⟨hfit, hx'⟩ := List.forall_mem_cons.1 hx
    obtain ⟨r, hr⟩ := runCommand_total x.command u
    have hrest : applyCommands (xs.map Presented.command) r = .next v := (applyCommands_cons hr).symm.trans hc
    have hpins : h.pins = x.gap ++ presentPins x.command :: (x.busyPins ++ (schedule xs ++ ps)) := by
      rw [hp, schedule_cons, List.append_assoc, List.cons_append, List.append_assoc]
    have hlen : (schedule (x :: xs)).length = x.gap.length + (x.busyPins.length + 1) + (schedule xs).length := by
      simp only [schedule_cons, List.length_append, List.length_cons]
      omega
    rw [hlen, runEdges_add _ (runEdges_command hb hfit hpins hr)]
    exact ih (h := { h with cmdq := x.command, pins := schedule xs ++ ps, edgesLeft := 0 }) hb hx' rfl hrest

/-- Settles O8: `runEdges_schedule` from the state itself, then the quiet edges at the end. -/
theorem commandsTakeEffectInAcceptanceOrder : Obligations.CommandsTakeEffectInAcceptanceOrder := by
  intro s xs gap ps hb hx hgap hp
  obtain ⟨u, hu, hub⟩ := applyCommands_total (xs.map Presented.command) s
  obtain ⟨h, hrun, hhb, hhp⟩ := runEdges_schedule (u := s) (h := s) hb hx hp hu
  have hfinal : runEdges (schedule xs ++ gap).length s = .next (u.withHidden { h with pins := ps }) := by
    rw [List.length_append]
    exact (runEdges_add gap.length hrun).trans (runEdges_quiet (s := u.withHidden h) hhb hgap hhp)
  exact ⟨_, u, hfinal, hu, outputs_withHidden (hhb.trans (hub.trans hb).symm), rfl⟩

end Sys2Proof.Machine
end

section
/-! The encoding (30_encoding.md R90, R92, R95): the fields that masking keeps, the decoder's answers inverted and how a
command word runs first, then the statements. -/

namespace Sys2Proof.Machine

/-! ### Ignored bits -/

/-- The command with its word and data word 0 wherever `i` does not read them (R92). -/
def zeroIgnored (i : Instr) (c : Command) : Command :=
  { word := c.word &&& i.readMask, data := if i.readsData then c.data else 0#64 }

/-- A mask that is all ones on a field keeps the field. -/
theorem extractLsb'_and_of_allOnes {w m : CmdWord} {start len : Nat}
    (hm : m.extractLsb' start len = BitVec.allOnes len) :
    (w &&& m).extractLsb' start len = w.extractLsb' start len := by
  rw [BitVec.extractLsb'_and, hm, BitVec.and_allOnes]

/-- Every command reads OP (R81). -/
theorem cwOp_readMask (i : Instr) : cwOp i.readMask = BitVec.allOnes 4 := by
  cases i <;> (rw [Instr.readMask]; decide)

theorem cwOp_zeroIgnored (i : Instr) (c : Command) : cwOp (zeroIgnored i c).word = cwOp c.word :=
  extractLsb'_and_of_allOnes (cwOp_readMask i)

theorem cwTag_and_readMask (w : CmdWord) (tag : BitVec 4) : cwTag (w &&& (Instr.setfmt tag).readMask) = cwTag w :=
  extractLsb'_and_of_allOnes (by rw [Instr.readMask]; decide)

theorem cwLe_and_readMask (w : CmdWord) (le lm : BitVec 6) : cwLe (w &&& (Instr.setlay le lm).readMask) = cwLe w :=
  extractLsb'_and_of_allOnes (by rw [Instr.readMask]; decide)

theorem cwLm_and_readMask (w : CmdWord) (le lm : BitVec 6) : cwLm (w &&& (Instr.setlay le lm).readMask) = cwLm w :=
  extractLsb'_and_of_allOnes (by rw [Instr.readMask]; decide)

theorem cwBase_and_readMask (w : CmdWord) (base : ParseBase) :
    cwBase (w &&& (Instr.decerr base).readMask) = cwBase w := by
  simp [cwBase, Instr.readMask]

/-! ### The decoder inverted -/

/-- What a legal word decodes to tells its OP and the fields it holds (R87). -/
theorem decodeCommand_ok_cases {c : Command} {i : Instr} (h : decodeCommand c = .ok i) :
    (cwOp c.word = 0#4 ∧ i = .nop) ∨
    (cwOp c.word = 1#4 ∧ i = .setfmt (cwTag c.word)) ∨
    (cwOp c.word = 2#4 ∧ i = .setlay (cwLe c.word) (cwLm c.word)) ∨
    (cwOp c.word = 3#4 ∧ i = .decode c.data) ∨
    (cwOp c.word = 4#4 ∧ i = .encode c.data) ∨
    (cwOp c.word = 5#4 ∧ i = .decerr (cwBase c.word)) ∨
    (cwOp c.word = 6#4 ∧ i = .encerr) := by
  have hval {j : Instr} (hj : decodeCommand c = .ok j) : i = j := Except.ok.inj (h.symm.trans hj)
  obtain h0 | h1 | h2 | h3 | h4 | h5 | h6 | h7 := cwOp_cases c.word
  · exact .inl ⟨h0, hval (decodeCommand_nop c h0)⟩
  · exact .inr (.inl ⟨h1, hval (decodeCommand_setfmt c h1)⟩)
  · exact .inr (.inr (.inl ⟨h2, hval (decodeCommand_setlay c h2)⟩))
  · exact .inr (.inr (.inr (.inl ⟨h3, hval (decodeCommand_decode c h3)⟩)))
  · exact .inr (.inr (.inr (.inr (.inl ⟨h4, hval (decodeCommand_encode c h4)⟩))))
  · exact .inr (.inr (.inr (.inr (.inr (.inl ⟨h5, hval (decodeCommand_decerr c h5)⟩)))))
  · exact .inr (.inr (.inr (.inr (.inr (.inr ⟨h6, hval (decodeCommand_encerr c h6)⟩)))))
  · cases h.symm.trans (decodeCommand_illegal c h7)

/-- The decoder reads no ignored bit and no unread data word (R92). -/
theorem decodeCommand_zeroIgnored {c : Command} {i : Instr} (h : decodeCommand c = .ok i) :
    decodeCommand (zeroIgnored i c) = .ok i := by
  have hop := cwOp_zeroIgnored i c
  obtain ⟨h0, rfl⟩ | ⟨h1, rfl⟩ | ⟨h2, rfl⟩ | ⟨h3, rfl⟩ | ⟨h4, rfl⟩ | ⟨h5, rfl⟩ | ⟨h6, rfl⟩ := decodeCommand_ok_cases h
  · exact decodeCommand_nop _ (hop.trans h0)
  · rw [decodeCommand_setfmt _ (hop.trans h1), zeroIgnored, cwTag_and_readMask]
  · rw [decodeCommand_setlay _ (hop.trans h2), zeroIgnored, cwLe_and_readMask, cwLm_and_readMask]
  · exact decodeCommand_decode _ (hop.trans h3)
  · exact decodeCommand_encode _ (hop.trans h4)
  · rw [decodeCommand_decerr _ (hop.trans h5), zeroIgnored, cwBase_and_readMask]
  · exact decodeCommand_encerr _ (hop.trans h6)

/-- The words with OP 7 to 15 are exactly those the decoder rejects, each by its OP (R90). -/
theorem decodeCommand_illegal_iff (c : Command) :
    7 ≤ (cwOp c.word).toNat ↔ decodeCommand c = .error (.illegalOpcode (cwOp c.word)) := by
  refine ⟨decodeCommand_illegal c, fun h => ?_⟩
  obtain h0 | h1 | h2 | h3 | h4 | h5 | h6 | h7 := cwOp_cases c.word
  · cases (decodeCommand_nop c h0).symm.trans h
  · cases (decodeCommand_setfmt c h1).symm.trans h
  · cases (decodeCommand_setlay c h2).symm.trans h
  · cases (decodeCommand_decode c h3).symm.trans h
  · cases (decodeCommand_encode c h4).symm.trans h
  · cases (decodeCommand_decerr c h5).symm.trans h
  · cases (decodeCommand_encerr c h6).symm.trans h
  · exact h7

/-! ### Running a command word -/

theorem runCommand_of_ok {c : Command} {i : Instr} (h : decodeCommand c = .ok i) (s : State) :
    runCommand c s = exec i s := by
  simp only [runCommand, h]

theorem runCommand_of_error {c : Command} {r : DecodeReject} (h : decodeCommand c = .error r) (s : State) :
    runCommand c s = .next { s with status := .errCmd } := by
  simp only [runCommand, h, execIllegal, raiseStatusOnly_eq]

/-! ### The statements -/

/-- Settles O15: both words decode to the same instruction, and the instruction alone is executed. -/
theorem ignoredBitsHaveNoEffect : Obligations.IgnoredBitsHaveNoEffect := by
  intro c i s h
  have hz : decodeCommand (zeroIgnored i c) = .ok i := decodeCommand_zeroIgnored h
  exact ⟨hz, (runCommand_of_ok h s).trans (runCommand_of_ok hz s).symm⟩

/-- Settles O16: the decoder rejects exactly these words, and a rejected word runs as ERR_CMD. -/
theorem illegalOpcodeWritesErrCmdAlone : Obligations.IllegalOpcodeWritesErrCmdAlone := fun c =>
  ⟨decodeCommand_illegal_iff c, fun h s => runCommand_of_error (decodeCommand_illegal c h) s⟩

/-- Settles O18: by the cases of `AsmLine.expand`, of which LAYOUT alone gives two commands. -/
theorem layoutLineExpandsToTwoCommands : Obligations.LayoutLineExpandsToTwoCommands := by
  refine ⟨fun e m => rfl, fun l hl => ?_⟩
  cases l with
  | layout e m => exact absurd rfl (hl e m)
  | _ => exact ⟨_, rfl⟩

end Sys2Proof.Machine
end

section
/-! The layout and format registry (40_layout.md R100, R104, R106): what SETFMT and SETLAY leave in each case first, then
the statements. An accepted command ends in a re-decode, whose meaning is `redecode_spec`. -/

namespace Sys2Proof.Machine

/-! ### SETFMT -/

theorem exec_setfmt_of_reserved {tag : BitVec 4} (h : 8 < tag.toNat) (s : State) :
    exec (.setfmt tag) s = .next { s with status := .errCmd } := if_pos h

theorem exec_setfmt_of_legal {tag : BitVec 4} (h : tag.toNat ≤ 8) (s : State) :
    exec (.setfmt tag) s = .next (redecode ((s.setFmt tag).usePreset tag)) := if_neg (Nat.not_lt.2 h)

theorem usePreset_of_some {tag : BitVec 4} {e m : BitVec 6} (h : preset tag = some (e, m)) (s : State) :
    s.usePreset tag = s.setLayout e m := by
  rw [State.usePreset, h]

theorem toNat_le_of_preset {tag : BitVec 4} {e m : BitVec 6} (h : preset tag = some (e, m)) : tag.toNat ≤ 8 := by
  have key : ∀ tag : BitVec 4, 8 < tag.toNat → preset tag = none := by decide
  by_contra hgt
  cases (key tag (Nat.not_le.1 hgt)).symm.trans h

/-- SETFMT of a named format: its tag and its widths, then a re-decode (R104). -/
theorem exec_setfmt_preset {tag : BitVec 4} {e m : BitVec 6} (h : preset tag = some (e, m)) (s : State) :
    exec (.setfmt tag) s = .next (redecode { s with fmt := tag, layE := e, layM := m }) := by
  rw [exec_setfmt_of_legal (toNat_le_of_preset h), usePreset_of_some h]
  rfl

/-- SETFMT custom: the tag alone, the widths as they were, then a re-decode (R104). -/
theorem exec_setfmt_custom (s : State) : exec (.setfmt customTag) s = .next (redecode { s with fmt := customTag }) :=
  exec_setfmt_of_legal (by decide) s

/-! ### SETLAY -/

theorem exec_setlay_of_refused {le : BitVec 6} {s : State} (h : s.fmt ≠ customTag ∨ le = 0#6) (lm : BitVec 6) :
    exec (.setlay le lm) s = .next { s with status := .errLayout } := if_pos h

theorem exec_setlay_of_legal {le : BitVec 6} {s : State} (hf : s.fmt = customTag) (hle : le ≠ 0#6) (lm : BitVec 6) :
    exec (.setlay le lm) s = .next (redecode { s with layE := le, layM := lm }) :=
  if_neg fun h => h.elim (absurd hf) hle

/-! ### The statements -/

/-- Settles O19: NOP's arm answers its own state. -/
theorem nopChangesNothing : Obligations.NopChangesNothing := fun _ => rfl

/-- Settles O20: a reserved tag is refused; each row of R102's table is the preset of its tag, and Custom has none. -/
theorem setfmtSelectsTheFormat : Obligations.SetfmtSelectsTheFormat := by
  intro s
  refine ⟨fun tag h => exec_setfmt_of_reserved h s, fun x hx => ?_, ⟨_, exec_setfmt_custom s, redecode_spec _⟩⟩
  have hrow : preset x.1 = some (x.2.1, x.2.2) := by fin_cases hx <;> rfl
  exact ⟨_, exec_setfmt_preset hrow s, redecode_spec _⟩

/-- Settles O21: the two conditions of R106 are complements, and a wide pair is re-decoded as any other. -/
theorem setlaySetsTheCustomWidths : Obligations.SetlaySetsTheCustomWidths := fun _ _ lm =>
  ⟨fun h => exec_setlay_of_refused h lm, fun hf hle => ⟨_, exec_setlay_of_legal hf hle lm, redecode_spec _⟩⟩

end Sys2Proof.Machine
end

section
/-! The decode commands (41_decode.md R126, R128): the mask of a stored pattern and a re-decode under a pending parse
error first, then the statements. -/

namespace Sys2Proof.Machine

/-! ### The mask of a stored pattern (00_scope.md R16) -/

theorem lowmask_toNat (t : Nat) : (lowmask t).toNat = 2 ^ min t 64 - 1 := by
  have h : 2 ^ min t 64 ≤ 2 ^ 64 := Nat.pow_le_pow_right two_pos (Nat.min_le_right t 64)
  rw [lowmask, BitVec.toNat_ofNat, Nat.mod_eq_of_lt (by omega)]

theorem and_lowmask_toNat (b : Word64) (t : Nat) : (b &&& lowmask t).toNat = b.toNat % 2 ^ min t 64 := by
  rw [BitVec.toNat_and, lowmask_toNat, Nat.and_two_pow_sub_one_eq_mod]

theorem and_lowmask_of_wide {t : Nat} (h : 64 < t) (b : Word64) : b &&& lowmask t = b := by
  apply BitVec.eq_of_toNat_eq
  rw [and_lowmask_toNat, Nat.min_eq_right h.le, Nat.mod_eq_of_lt b.isLt]

theorem and_lowmask_self (b : Word64) (t : Nat) : b &&& lowmask t &&& lowmask t = b &&& lowmask t := by
  rw [BitVec.and_assoc, BitVec.and_self]

/-! ### The commands -/

theorem exec_decode (b : Word64) (s : State) :
    exec (.decode b) s = .next (redecode { s with bits := b &&& lowmask s.total, srcv := true }) := rfl

theorem exec_decerr (base : ParseBase) (s : State) :
    exec (.decerr base) s = .next (redecode { s with srcb := base, bits := 0#64, srcv := false }) := rfl

/-- A re-decode without a valid source raises an error, ERR_WIDTH before the parse error (R123). -/
theorem redecode_of_pending {s : State} (hv : s.srcv = false) :
    redecode s = raiseDecodeSide (if 64 < s.total then .errWidth else parseErrorStatus s.srcb) s := by
  by_cases h : 64 < s.total
  · rw [redecode, if_pos ((wide_iff s).2 h), if_pos h]
  · rw [redecode, if_neg (mt (wide_iff s).1 h), hv, if_neg Bool.false_ne_true, if_neg h]

theorem parseErrorStatus_eq_ite (base : ParseBase) :
    parseErrorStatus base = if base = .hex then .errHex else .errBin := by cases base <;> rfl

/-! ### The statements -/

/-- Settles O22: what a re-decode leaves of the masked pattern, which masking again does not change. -/
theorem decodeDecodesTheMaskedPattern : Obligations.DecodeDecodesTheMaskedPattern := by
  intro s b
  have hr := redecode_spec { s with bits := b &&& lowmask s.total, srcv := true }
  refine ⟨_, exec_decode b s, hr, fun hn => ?_, fun hw => ?_⟩
  · obtain ⟨hbits, hstatus, hresults⟩ := hr.decoded hn rfl
    have hmask := congrArg BitVec.toNat (hbits.trans (and_lowmask_self b s.total))
    rw [and_lowmask_toNat, Nat.min_eq_left hn] at hmask
    exact ⟨hstatus, hmask, hresults⟩
  · obtain ⟨hstatus, hresults, hbits⟩ := hr.wide hw
    exact ⟨hstatus, hbits.trans (and_lowmask_of_wide hw b), hresults⟩

/-- Settles O23: DECERR leaves no valid source, so its re-decode raises an error. -/
theorem decerrReportsTheParseError : Obligations.DecerrReportsTheParseError := by
  intro s base
  refine ⟨_, (exec_decerr base s).trans (congrArg _ (redecode_of_pending rfl)), rfl, ?_⟩
  rw [← parseErrorStatus_eq_ite]
  rfl

end Sys2Proof.Machine
end

section
/-! DEC_CORE (41_decode.md R121, R130 to R132): the fields of a pattern bit by bit, the per-bit array, and DEC_CORE in
each of its branches first, then the statements. -/

namespace Sys2Proof.Machine

/-! ### Fields of a pattern (10_state.md R42) -/

theorem LegalLayout.total_le {E M : Nat} (hl : LegalLayout E M) : 1 + E + M ≤ 64 := hl.2

theorem shiftRight_and_one (x i : Nat) : x >>> i &&& 1 = (x.testBit i).toNat := by
  rw [Nat.shiftRight_eq_div_pow, Nat.and_one_is_mod, Nat.toNat_testBit]

theorem signField_eq (b : Word64) (E M : Nat) : signField b E M = b.getLsbD (E + M) := by
  rw [signField, totalBits, Nat.add_assoc, Nat.add_sub_cancel_left]

/-- The sign as the rule reads it, by shift and mask (R121). -/
theorem signField_eq_decide (b : Word64) (E M : Nat) :
    signField b E M = decide (b.toNat >>> (1 + E + M - 1) &&& 1 = 1) := by
  rw [Nat.shiftRight_eq_div_pow, Nat.and_one_is_mod, ← Nat.testBit_eq_decide_div_mod_eq]
  rfl

/-- The exponent field as the rule reads it, by shift and mask (R121). -/
theorem expField_eq_shift_and_mask (b : Word64) (E M : Nat) : expField b E M = b.toNat >>> M &&& (2 ^ E - 1) := by
  rw [Nat.and_two_pow_sub_one_eq_mod, Nat.shiftRight_eq_div_pow, expField]

/-- The mantissa field as the rule reads it, by its mask (R121). -/
theorem mantField_eq_mask (b : Word64) (M : Nat) : mantField b M = b.toNat &&& (2 ^ M - 1) := by
  rw [Nat.and_two_pow_sub_one_eq_mod, mantField]

theorem expField_testBit (b : Word64) (E M k : Nat) :
    (expField b E M).testBit k = (decide (k < E) && b.getLsbD (k + M)) := by
  rw [expField, Nat.testBit_mod_two_pow, Nat.testBit_div_two_pow, BitVec.testBit_toNat]

theorem mantField_testBit (b : Word64) (M k : Nat) :
    (mantField b M).testBit k = (decide (k < M) && b.getLsbD k) := by
  rw [mantField, Nat.testBit_mod_two_pow, BitVec.testBit_toNat]

theorem expField_lt (b : Word64) (E M : Nat) : expField b E M < 2 ^ E := Nat.mod_lt _ (Nat.two_pow_pos E)

theorem mantField_lt (b : Word64) (M : Nat) : mantField b M < 2 ^ M := Nat.mod_lt _ (Nat.two_pow_pos M)

theorem emask_pos {E : Nat} (hE : 1 ≤ E) : 0 < emask E :=
  Nat.sub_pos_of_lt (Nat.one_lt_two_pow (Nat.one_le_iff_ne_zero.1 hE))

theorem bias_cast (E : Nat) : (bias E : ℤ) = 2 ^ (E - 1) - 1 := by
  rw [bias, Nat.cast_sub Nat.one_le_two_pow]
  norm_num

/-! ### The per-bit array (10_state.md R36) -/

theorem perBitArrayUpTo_getLsbD (b : Word64) (total i : Nat) {n : Nat} (hn : n ≤ 64) :
    (perBitArrayUpTo b total n).getLsbD i = (decide (i < n ∧ i < total) && b.getLsbD (total - 1 - i)) := by
  induction n with
  | zero => simp [perBitArrayUpTo]
  | succ n ih =>
    have ih := ih (by omega)
    rw [perBitArrayUpTo]
    rcases eq_or_ne i n with rfl | hne
    · -- marker i is set at this step or at none
      split_ifs with hc
      · simp [hc, Nat.lt_of_succ_le hn]
      · simpa [ih] using hc
    · -- the other markers stay as they were
      have hi : i < n + 1 ↔ i < n := by omega
      split_ifs <;> simp [ih, hi, BitVec.getLsbD_twoPow, hne.symm]

theorem perBitArray_getLsbD (b : Word64) {total : Nat} (ht : total ≤ 64) (i : Nat) :
    (perBitArray b total).getLsbD i = (decide (i < total) && b.getLsbD (total - 1 - i)) := by
  have h : i < 64 ∧ i < total ↔ i < total := by omega
  simp only [perBitArray, perBitArrayUpTo_getLsbD b total i le_rfl, h]

theorem perBitArray_toNat_lt (b : Word64) {total : Nat} (ht : total ≤ 64) :
    (perBitArray b total).toNat < 2 ^ total := by
  refine Nat.lt_pow_two_of_testBit _ fun i hi => ?_
  rw [BitVec.testBit_toNat, perBitArray_getLsbD b ht, decide_eq_false (Nat.not_lt.2 hi), Bool.false_and]

/-! ### DEC_CORE in each branch (R121) -/

/-- SIG of a NUMBER pattern, as a natural number (R121). -/
def numberSig (b : Word64) (E M : Nat) : Nat :=
  if expField b E M = 0 then mantField b M else 2 ^ M + mantField b M

/-- EXP2 of a NUMBER pattern, as an integer (R121). -/
def numberExp2 (b : Word64) (E M : Nat) : Int :=
  (if expField b E M = 0 then 1 else (expField b E M : Int)) - bias E - M

theorem decCore_of_inf {b : Word64} {E M : Nat} (he : expField b E M = emask E) (hm : mantField b M = 0) :
    decCore b E M =
      { cls := .inf, sign := signField b E M, value := if signField b E M then f64NInf else f64PInf,
        sig := 0#64, exp2 := 0#64, pba := perBitArray b (totalBits E M) } := by
  simp only [decCore, he, hm, if_true]

theorem decCore_of_nan {b : Word64} {E M : Nat} (he : expField b E M = emask E) (hm : mantField b M ≠ 0) :
    decCore b E M =
      { cls := .nan, sign := signField b E M, value := f64QNaN,
        sig := 0#64, exp2 := 0#64, pba := perBitArray b (totalBits E M) } := by
  simp only [decCore, he, hm, if_true, if_false]

theorem decCore_of_number {b : Word64} {E M : Nat} (he : expField b E M ≠ emask E) :
    decCore b E M =
      { cls := .number, sign := signField b E M,
        value := roundF64 (signField b E M) (numberSig b E M) (numberExp2 b E M),
        sig := BitVec.ofNat 64 (numberSig b E M), exp2 := BitVec.ofInt 64 (numberExp2 b E M),
        pba := perBitArray b (totalBits E M) } := if_neg he

/-- Every pattern falls under one of the three branches. -/
theorem decCore_fields_cases (b : Word64) (E M : Nat) :
    (expField b E M = emask E ∧ mantField b M = 0) ∨ (expField b E M = emask E ∧ mantField b M ≠ 0) ∨
      expField b E M ≠ emask E := by
  tauto

theorem decCore_sign (b : Word64) (E M : Nat) : (decCore b E M).sign = signField b E M := by
  rcases decCore_fields_cases b E M with ⟨he, hm⟩ | ⟨he, hm⟩ | he
  · rw [decCore_of_inf he hm]
  · rw [decCore_of_nan he hm]
  · rw [decCore_of_number he]

theorem decCore_pba (b : Word64) (E M : Nat) : (decCore b E M).pba = perBitArray b (totalBits E M) := by
  rcases decCore_fields_cases b E M with ⟨he, hm⟩ | ⟨he, hm⟩ | he
  · rw [decCore_of_inf he hm]
  · rw [decCore_of_nan he hm]
  · rw [decCore_of_number he]

/-- PBA is the pattern MSB first in every class (R131). -/
theorem decCore_pba_getLsbD {E M : Nat} (hl : LegalLayout E M) (b : Word64) (i : Nat) :
    (decCore b E M).pba.getLsbD i = (decide (i < 1 + E + M) && b.getLsbD (1 + E + M - 1 - i)) := by
  rw [decCore_pba]
  exact perBitArray_getLsbD b hl.total_le i

theorem decCore_cls_eq_number_iff (b : Word64) (E M : Nat) :
    (decCore b E M).cls = .number ↔ expField b E M ≠ emask E := by
  rcases decCore_fields_cases b E M with ⟨he, hm⟩ | ⟨he, hm⟩ | he
  · simp [decCore_of_inf he hm, he]
  · simp [decCore_of_nan he hm, he]
  · simp [decCore_of_number he, he]

/-! ### SIG and EXP2 of a NUMBER fit their registers -/

theorem numberSig_lt (b : Word64) (E M : Nat) : numberSig b E M < 2 ^ (M + 1) := by
  have hm := mantField_lt b M
  rw [numberSig, pow_succ]
  split_ifs <;> omega

/-- Under a legal layout EXP2 fits 64 bits in two's complement. -/
theorem numberExp2_bounds {E M : Nat} (hl : LegalLayout E M) (b : Word64) :
    -2 ^ 63 ≤ numberExp2 b E M ∧ numberExp2 b E M < 2 ^ 63 := by
  have hE := hl.1
  have hEM := hl.total_le
  have hef : expField b E M < 2 ^ 63 := (expField_lt b E M).trans_le (Nat.pow_le_pow_right two_pos (by omega))
  have hbias : bias E < 2 ^ 62 :=
    (Nat.sub_lt (Nat.two_pow_pos _) one_pos).trans_le (Nat.pow_le_pow_right two_pos (by omega))
  rw [numberExp2]
  split_ifs <;> omega

theorem decCore_sig_toNat {b : Word64} {E M : Nat} (hl : LegalLayout E M) (he : expField b E M ≠ emask E) :
    (decCore b E M).sig.toNat = numberSig b E M := by
  have hEM := hl.total_le
  have hlt : numberSig b E M < 2 ^ 64 := (numberSig_lt b E M).trans_le (Nat.pow_le_pow_right two_pos (by omega))
  rw [decCore_of_number he, BitVec.toNat_ofNat, Nat.mod_eq_of_lt hlt]

theorem decCore_exp2_toInt {b : Word64} {E M : Nat} (hl : LegalLayout E M) (he : expField b E M ≠ emask E) :
    (decCore b E M).exp2.toInt = numberExp2 b E M := by
  obtain ⟨hlow, hhigh⟩ := numberExp2_bounds hl b
  rw [decCore_of_number he]
  exact BitVec.toInt_ofInt_eq_self (by decide) hlow hhigh

/-- The exact value of a NUMBER from its fields (10_state.md R34, R35). -/
theorem decCore_exactValue {b : Word64} {E M : Nat} (hl : LegalLayout E M) (he : expField b E M ≠ emask E) :
    (decCore b E M).exactValue = withSign (signField b E M) (scaled (numberSig b E M) (numberExp2 b E M)) := by
  rw [Decoded.exactValue, decCore_sign, decCore_sig_toNat hl he, decCore_exp2_toInt hl he]

/-! ### Exponent field 0 and zero patterns -/

theorem numberExp2_of_expField_zero {b : Word64} {E M : Nat} (he : expField b E M = 0) :
    numberExp2 b E M = 1 - (2 ^ (E - 1) - 1) - (M : ℤ) := by rw [numberExp2, if_pos he, bias_cast]

theorem numberExp2_of_expField_ne_zero {b : Word64} {E M : Nat} (he : expField b E M ≠ 0) :
    numberExp2 b E M = (expField b E M : ℤ) - (2 ^ (E - 1) - 1) - (M : ℤ) := by
  rw [numberExp2, if_neg he, bias_cast]

theorem roundF64_zero (s : Bool) (t : Int) : roundF64 s 0 t = if s then f64NZero else f64PZero := by
  rw [roundF64, roundF64Magnitude, if_pos rfl]
  exact BitVec.or_zero

/-- A pattern whose exponent and mantissa fields are 0 decodes to the zero of its sign (R132). -/
theorem decCore_of_zero_fields {b : Word64} {E M : Nat} (hl : LegalLayout E M) (he : expField b E M = 0)
    (hm : mantField b M = 0) :
    (decCore b E M).cls = .number ∧ (decCore b E M).sign = signField b E M ∧
      (decCore b E M).value = (if signField b E M then f64NZero else f64PZero) ∧ (decCore b E M).sig = 0#64 ∧
      (decCore b E M).exp2.toInt = 1 - (2 ^ (E - 1) - 1) - (M : ℤ) := by
  have hne : expField b E M ≠ emask E := he.trans_ne (emask_pos hl.1).ne
  have hsig : numberSig b E M = 0 := (if_pos he).trans hm
  refine ⟨(decCore_cls_eq_number_iff b E M).2 hne, decCore_sign b E M, ?_, ?_,
    (decCore_exp2_toInt hl hne).trans (numberExp2_of_expField_zero he)⟩
  · rw [decCore_of_number hne, hsig, roundF64_zero]
  · rw [decCore_of_number hne, hsig]

/-- The pattern with the sign bit alone, as a number (R132). -/
theorem signBit_toNat {E M : Nat} (hl : LegalLayout E M) : (1#64 <<< (1 + E + M - 1)).toNat = 2 ^ E * 2 ^ M := by
  have hEM := hl.total_le
  rw [← BitVec.twoPow_eq, BitVec.toNat_twoPow_of_lt (by omega), ← pow_add, Nat.add_assoc, Nat.add_sub_cancel_left]

/-! ### The statements -/

/-- Settles O31: DEC_CORE's array is `perBitArray`, and each field's bits are bits of the pattern. -/
theorem perBitArrayIsThePatternMsbFirst : Obligations.PerBitArrayIsThePatternMsbFirst := by
  intro b E M hl
  have hpba := decCore_pba_getLsbD hl b
  refine ⟨hpba, ?_, fun j hj => ?_, fun j hj => ?_⟩
  · rw [hpba, decCore_sign, decide_eq_true (by omega), Bool.true_and]
    rfl
  · rw [hpba, expField_testBit, decide_eq_true (by omega), decide_eq_true (by omega),
      show 1 + E + M - 1 - (1 + j) = E - 1 - j + M by omega]
  · rw [hpba, mantField_testBit, decide_eq_true (by omega), decide_eq_true (by omega),
      show 1 + E + M - 1 - (E + 1 + j) = M - 1 - j by omega]

/-- Settles O32: the rule's fields are the model's, and each branch of DEC_CORE gives its tuple. -/
theorem decCoreGivesTheTupleOfItsRule : Obligations.DecCoreGivesTheTupleOfItsRule := by
  rintro b E M sf ef mf hl rfl rfl rfl
  have hsign := signField_eq_decide b E M
  rw [← expField_eq_shift_and_mask, ← mantField_eq_mask]
  refine ⟨(decCore_sign b E M).trans hsign, fun i hi => ?_, ?_, fun he hm => ?_, fun he hm => ?_, fun he => ?_⟩
  · rw [shiftRight_and_one, shiftRight_and_one, BitVec.testBit_toNat, BitVec.testBit_toNat, decCore_pba_getLsbD hl,
      decide_eq_true hi, Bool.true_and]
  · rw [decCore_pba]
    exact perBitArray_toNat_lt b hl.total_le
  · rw [decCore_of_inf he hm, hsign]
    refine ⟨rfl, ?_, rfl, rfl⟩
    simp only [decide_eq_true_eq]
    rfl
  · rw [decCore_of_nan he hm]
    exact ⟨rfl, rfl, rfl, rfl⟩
  · rw [decCore_sig_toNat hl he, decCore_exp2_toInt hl he, ← hsign]
    refine ⟨(decCore_cls_eq_number_iff b E M).2 he, rfl, ?_, by rw [decCore_of_number he]⟩
    split_ifs with h0
    · exact numberExp2_of_expField_zero h0
    · exact numberExp2_of_expField_ne_zero h0

/-- Settles O36: both patterns have exponent and mantissa fields 0, and differ in the sign bit. -/
theorem zeroPatternsDecodeToSignedZeros : Obligations.ZeroPatternsDecodeToSignedZeros := by
  intro E M hl
  have hbit := signBit_toNat hl
  constructor
  · have hsign : signField 0#64 E M = false := BitVec.getLsbD_zero
    have key := decCore_of_zero_fields (b := 0#64) hl (by simp [expField]) (by simp [mantField])
    rwa [hsign] at key
  · have hsign : signField (1#64 <<< (1 + E + M - 1)) E M = true := by
      rw [signField_eq_decide, hbit, ← pow_add, Nat.add_assoc, Nat.add_sub_cancel_left,
        Nat.shiftRight_eq_div_pow, Nat.div_self (Nat.two_pow_pos _)]
      rfl
    have key := decCore_of_zero_fields (b := 1#64 <<< (1 + E + M - 1)) hl
      (by rw [expField, hbit, Nat.mul_div_cancel _ (Nat.two_pow_pos M), Nat.mod_self])
      (by rw [mantField, hbit, Nat.mul_mod_left])
    rwa [hsign] at key

/-- Settles O37: without a mantissa field SIG is 0 with exponent field 0 and the hidden 1 with any other. -/
theorem noMantissaGivesPowersOfTwo : Obligations.NoMantissaGivesPowersOfTwo := by
  intro b E hl hcls
  have he := (decCore_cls_eq_number_iff b E 0).1 hcls
  have hm : mantField b 0 = 0 := Nat.mod_one _
  rw [decCore_exactValue hl he, decCore_of_number he]
  refine ⟨fun h0 => ?_, fun h0 => ?_⟩
  · have hsig : numberSig b E 0 = 0 := (if_pos h0).trans hm
    rw [hsig]
    simp [scaled, withSign]
  · have hsig : numberSig b E 0 = 1 := by rw [numberSig, if_neg h0, hm, pow_zero]
    rw [hsig, numberExp2_of_expField_ne_zero h0, signField_eq]
    simp [scaled]

end Sys2Proof.Machine
end

section
/-! Exact values (00_scope.md R16, R17): m · 2^t as a rational, ilog2 and rhaz on it, the classes of a binary64 word
and the magnitude of a finite one. The statement about the exponent of an ENCODE operand (42_encode.md R153) ends it. -/

namespace Sys2Proof.Machine

/-! ### m · 2^t and its scaling by powers of two -/

theorem scaled_nonneg (m : Nat) (t : Int) : 0 ≤ scaled m t := by
  unfold scaled
  positivity

theorem scaled_mul_two_zpow (m : Nat) (t k : Int) : scaled m t * (2 : ℚ) ^ k = scaled m (t + k) := by
  rw [scaled, scaled, mul_assoc, zpow_add₀ two_ne_zero]

theorem scaled_div_two_zpow (m : Nat) (t k : Int) : scaled m t / (2 : ℚ) ^ k = scaled m (t - k) := by
  rw [scaled, scaled, mul_div_assoc, zpow_sub₀ two_ne_zero]

theorem scaled_two_pow (k : Nat) (t : Int) : scaled (2 ^ k) t = (2 : ℚ) ^ ((k : Int) + t) := by
  rw [scaled, zpow_add₀ two_ne_zero, zpow_natCast, Nat.cast_pow, Nat.cast_ofNat]

theorem scaled_sub {a b : Nat} (h : b ≤ a) (t : Int) : scaled (a - b) t = scaled a t - scaled b t := by
  rw [scaled, scaled, scaled, Nat.cast_sub h, sub_mul]

theorem scaled_le_scaled {a b : Nat} (h : a ≤ b) (t : Int) : scaled a t ≤ scaled b t := by
  unfold scaled
  gcongr

theorem scaled_lt_scaled {a b : Nat} (h : a < b) (t : Int) : scaled a t < scaled b t := by
  unfold scaled
  gcongr

/-! ### ilog2 -/

theorem two_zpow_ilog2_le {m : Nat} (hm : 0 < m) (t : Int) : (2 : ℚ) ^ ilog2 m t ≤ scaled m t := by
  rw [ilog2, ← scaled_two_pow]
  exact scaled_le_scaled (Nat.log2_self_le hm.ne') t

theorem lt_two_zpow_ilog2_add_one (m : Nat) (t : Int) : scaled m t < (2 : ℚ) ^ (ilog2 m t + 1) := by
  have key : ilog2 m t + 1 = ((m.log2 + 1 : Nat) : Int) + t := by rw [ilog2]; omega
  rw [key, ← scaled_two_pow]
  exact scaled_lt_scaled Nat.lt_log2_self t

/-- The exponent of the binade of m · 2^t is unique. -/
theorem ilog2_unique {m : Nat} (hm : 0 < m) {t k : Int} (hlow : (2 : ℚ) ^ k ≤ scaled m t)
    (hhigh : scaled m t < (2 : ℚ) ^ (k + 1)) : ilog2 m t = k := by
  have h1 := (zpow_lt_zpow_iff_right₀ one_lt_two).1 (hlow.trans_lt (lt_two_zpow_ilog2_add_one m t))
  have h2 := (zpow_lt_zpow_iff_right₀ one_lt_two).1 ((two_zpow_ilog2_le hm t).trans_lt hhigh)
  omega

/-! ### rhaz -/

/-- rhaz is floor(x + 1/2) on the exact value (R16, R155). -/
theorem rhaz_eq_floor (m : Nat) (t : Int) : (rhaz m t : ℤ) = ⌊scaled m t + 1 / 2⌋ := by
  rw [rhaz]
  split_ifs with ht
  · -- x is an integer, and adding a half does not reach the next one
    obtain ⟨k, rfl⟩ := Int.eq_ofNat_of_zero_le ht
    have hx : scaled m k = ((m * 2 ^ k : Nat) : ℚ) := by rw [scaled, zpow_natCast]; push_cast; rfl
    rw [hx, Int.toNat_natCast, Int.floor_natCast_add]
    norm_num
  · -- x = m / 2^k, so x + 1/2 is the fraction that is divided out
    obtain ⟨k, rfl⟩ : ∃ k : Nat, t = -(k : Int) := ⟨(-t).toNat, by omega⟩
    have hx : scaled m (-k) + 1 / 2 = ((2 * m + 2 ^ k : Nat) : ℚ) / ((2 ^ (k + 1) : Nat) : ℚ) := by
      rw [scaled, zpow_neg, zpow_natCast]
      push_cast
      field_simp
      ring
    rw [hx, Rat.floor_natCast_div_natCast, neg_neg, Int.toNat_natCast]
    norm_cast

theorem rhaz_le_of_scaled_lt {m n : Nat} {t : Int} (h : scaled m t < n) : rhaz m t ≤ n := by
  have hlt : ⌊scaled m t + 1 / 2⌋ < (n : ℤ) + 1 := Int.floor_lt.2 (by push_cast; linarith)
  have := rhaz_eq_floor m t
  omega

/-! ### The classes of a binary64 word -/

theorem f64IsNaN_of_isInf {v : Word64} (h : f64IsInf v = true) : f64IsNaN v = false :=
  decide_eq_false fun hn => hn.2 (of_decide_eq_true h).2

theorem F64Finite.isNaN {v : Word64} (h : F64Finite v) : f64IsNaN v = false := decide_eq_false fun hn => h hn.1

theorem F64Finite.isInf {v : Word64} (h : F64Finite v) : f64IsInf v = false := decide_eq_false fun hi => h hi.1

theorem F64Finite.of_isZero {v : Word64} (h : f64IsZero v = true) : F64Finite v :=
  (of_decide_eq_true h).1.trans_ne (by decide)

/-! ### The magnitude of a finite word -/

theorem f64Fv_lt (v : Word64) : f64Fv v < 2 ^ 52 := Nat.mod_lt _ (Nat.two_pow_pos 52)

theorem f64Fv_pos_of_subnormal {v : Word64} (hz : f64IsZero v = false) (he : f64Ev v = 0) : 0 < f64Fv v :=
  Nat.pos_of_ne_zero fun hf => of_decide_eq_false hz ⟨he, hf⟩

theorem f64Sig_pos {v : Word64} (hz : f64IsZero v = false) : 0 < f64Sig v := by
  rw [f64Sig]
  split_ifs with he
  · exact f64Fv_pos_of_subnormal hz he
  · positivity

theorem abs_withSign (s : Bool) (x : ℚ) : |withSign s x| = |x| := by
  cases s
  · rfl
  · exact abs_neg x

theorem abs_f64Value (v : Word64) : |f64Value v| = scaled (f64Sig v) (f64Exp v) := by
  rw [f64Value, abs_withSign, abs_of_nonneg (scaled_nonneg _ _)]

theorem f64_ilog2_of_normal {v : Word64} (he : f64Ev v ≠ 0) :
    ilog2 (f64Sig v) (f64Exp v) = (f64Ev v : ℤ) - 1023 := by
  have hf := f64Fv_lt v
  have hlog : Nat.log2 (2 ^ 52 + f64Fv v) = 52 := (Nat.log2_eq_iff (by omega)).2 ⟨by omega, by omega⟩
  rw [ilog2, f64Sig, f64Exp, if_neg he, if_neg he, hlog]
  omega

theorem f64_ilog2_of_subnormal {v : Word64} (he : f64Ev v = 0) :
    ilog2 (f64Sig v) (f64Exp v) = (Nat.log2 (f64Fv v) : ℤ) - 1074 := by
  rw [ilog2, f64Sig, f64Exp, if_pos he, if_pos he]
  rfl

/-! ### The statement -/

/-- Settles O46: `ilog2` brackets the magnitude, and a binary64 significand has its top bit at 52 when normal and below
52 when subnormal. -/
theorem operandExponentIsExact : Obligations.OperandExponentIsExact := by
  intro v _ hz
  rw [abs_f64Value]
  refine ⟨?_, ?_, f64_ilog2_of_normal, fun he => ⟨f64_ilog2_of_subnormal he, ?_⟩⟩
  · rw [le_div_iff₀ (by positivity), one_mul]
    exact two_zpow_ilog2_le (f64Sig_pos hz) _
  · rw [div_lt_iff₀ (by positivity), ← zpow_one_add₀ two_ne_zero, add_comm]
    exact lt_two_zpow_ilog2_add_one _ _
  · have hlog : Nat.log2 (f64Fv v) < 52 :=
      (Nat.log2_lt (f64Fv_pos_of_subnormal hz he).ne').2 (f64Fv_lt v)
    rw [f64_ilog2_of_subnormal he]
    omega

end Sys2Proof.Machine
end

section
/-! ENC_CORE (42_encode.md R151, R152, R158): the assembled pattern and its fields, the fraction of each path on exact
rationals, and ENC_CORE in each of its branches first, then the statements. -/

namespace Sys2Proof.Machine

/-! ### The assembled pattern (R157) -/

/-- With fields that fit, the assembly is the concatenation of sign, exponent field and mantissa field. -/
theorem assemblePattern_toNat {E M ef n : Nat} (hl : LegalLayout E M) (hef : ef < 2 ^ E) (hn : n < 2 ^ M) (s : Bool) :
    (assemblePattern s ef n E M).toNat = ((if s then 2 ^ E else 0) + ef) * 2 ^ M + n := by
  have hEM := hl.total_le
  have hfields : ef * 2 ^ M + n < 2 ^ (E + M) := by
    have h1 : (ef + 1) * 2 ^ M ≤ 2 ^ E * 2 ^ M := Nat.mul_le_mul_right _ hef
    rw [pow_add]
    linarith
  have hor : (if s then 2 ^ (E + M) else 0) ||| ef <<< M ||| n = (if s then 2 ^ (E + M) else 0) + (ef * 2 ^ M + n) := by
    rw [Nat.or_assoc, ← Nat.shiftLeft_add_eq_or_of_lt hn, Nat.shiftLeft_eq]
    cases s
    · simp
    · simpa using (Nat.two_pow_add_eq_or_of_lt hfields 1).symm
  have hfit : (if s then 2 ^ (E + M) else 0) + (ef * 2 ^ M + n) < 2 ^ 64 := by
    have h64 : 2 ^ (E + M + 1) ≤ 2 ^ 64 := Nat.pow_le_pow_right two_pos (by omega)
    rw [pow_succ] at h64
    split_ifs <;> omega
  rw [assemblePattern, totalBits, Nat.add_assoc, Nat.add_sub_cancel_left, hor, BitVec.toNat_ofNat,
    Nat.mod_eq_of_lt hfit, pow_add]
  split_ifs <;> ring

/-- The sign bit at its place, as a multiple of the exponent field's unit. -/
theorem signWeight_eq (s : Bool) (E M : Nat) :
    (if s then 2 ^ (1 + E + M - 1) else 0) = (if s then 2 ^ E else 0) * 2 ^ M := by
  rw [Nat.add_assoc, Nat.add_sub_cancel_left, pow_add, ite_mul, zero_mul]

section
variable {E M ef n : Nat} (hl : LegalLayout E M) (hef : ef < 2 ^ E) (hn : n < 2 ^ M) (s : Bool)
include hl hef hn

theorem mantField_assemblePattern : mantField (assemblePattern s ef n E M) M = n := by
  rw [mantField, assemblePattern_toNat hl hef hn, Nat.mul_add_mod', Nat.mod_eq_of_lt hn]

theorem assemblePattern_toNat_div :
    (assemblePattern s ef n E M).toNat / 2 ^ M = (if s then 2 ^ E else 0) + ef := by
  rw [assemblePattern_toNat hl hef hn, Nat.mul_comm, Nat.mul_add_div (Nat.two_pow_pos M), Nat.div_eq_of_lt hn,
    Nat.add_zero]

theorem expField_assemblePattern : expField (assemblePattern s ef n E M) E M = ef := by
  rw [expField, assemblePattern_toNat_div hl hef hn]
  cases s <;> simp [Nat.mod_eq_of_lt hef]

theorem signField_assemblePattern : signField (assemblePattern s ef n E M) E M = s := by
  rw [signField_eq, ← BitVec.testBit_toNat, ← Nat.testBit_div_two_pow, assemblePattern_toNat_div hl hef hn]
  cases s
  · simp [Nat.testBit_lt_two_pow hef]
  · simp [Nat.testBit_two_pow_add_eq, Nat.testBit_lt_two_pow hef]

end

/-! ### The rounded fields and their carry (R153 to R156) -/

theorem encFields_of_overflow {m E : Nat} {t : Int} (h : maxExp E < ilog2 m t) (M : Nat) :
    encFields m t E M = none := if_pos h

theorem encFields_of_subnormal {m E : Nat} {t : Int} (hmax : ilog2 m t ≤ maxExp E) (hmin : ilog2 m t < minExp E)
    (M : Nat) : encFields m t E M = some (0, rhaz m (t - minExp E + M)) :=
  (if_neg (not_lt.2 hmax)).trans (if_pos hmin)

theorem encFields_of_normal {m E : Nat} {t : Int} (hmax : ilog2 m t ≤ maxExp E) (hmin : minExp E ≤ ilog2 m t)
    (M : Nat) : encFields m t E M =
      some ((ilog2 m t + bias E).toNat, rhaz (m - 2 ^ Nat.log2 m) ((M : Int) - Nat.log2 m)) :=
  (if_neg (not_lt.2 hmax)).trans (if_neg (not_lt.2 hmin))

/-- The fraction of the subnormal path, mant · 2^(exp - min_exp), times 2^M. -/
theorem scaled_of_subnormal (m M : Nat) (t exp min : Int) :
    scaled m (t - min + M) = scaled m t / (2 : ℚ) ^ exp * (2 : ℚ) ^ (exp - min) * (2 : ℚ) ^ M := by
  rw [← zpow_natCast, scaled_div_two_zpow, scaled_mul_two_zpow, scaled_mul_two_zpow]
  congr 1
  ring

/-- The fraction of the normal path, mant - 1, times 2^M. -/
theorem scaled_of_normal {m : Nat} (hm : 0 < m) (M : Nat) (t : Int) :
    scaled (m - 2 ^ Nat.log2 m) ((M : Int) - Nat.log2 m) =
      (scaled m t / (2 : ℚ) ^ ilog2 m t - 1) * (2 : ℚ) ^ M := by
  rw [scaled_sub (Nat.log2_self_le hm.ne'), scaled_two_pow, scaled_div_two_zpow, sub_mul, one_mul, ← zpow_natCast,
    scaled_mul_two_zpow, ilog2]
  congr 2 <;> ring

/-- On the subnormal path the fraction is below 1, so n is at most 2^M. -/
theorem rhaz_le_of_subnormal {m E : Nat} {t : Int} (hmin : ilog2 m t < minExp E) (M : Nat) :
    rhaz m (t - minExp E + M) ≤ 2 ^ M := by
  apply rhaz_le_of_scaled_lt
  calc scaled m (t - minExp E + M) < (2 : ℚ) ^ (ilog2 m (t - minExp E + M) + 1) := lt_two_zpow_ilog2_add_one _ _
    _ ≤ (2 : ℚ) ^ (M : Int) := by
      refine zpow_le_zpow_right₀ one_le_two ?_
      rw [ilog2] at hmin ⊢
      omega
    _ = ((2 ^ M : Nat) : ℚ) := by push_cast; exact zpow_natCast 2 M

/-- On the normal path the fraction is below 1, so n is at most 2^M. -/
theorem rhaz_le_of_normal {m : Nat} (hm : 0 < m) (M : Nat) :
    rhaz (m - 2 ^ Nat.log2 m) ((M : Int) - Nat.log2 m) ≤ 2 ^ M := by
  have hlt : m - 2 ^ Nat.log2 m < 2 ^ Nat.log2 m := by
    have := Nat.lt_log2_self (n := m)
    have := Nat.log2_self_le hm.ne'
    omega
  apply rhaz_le_of_scaled_lt
  calc scaled (m - 2 ^ Nat.log2 m) ((M : Int) - Nat.log2 m)
      < scaled (2 ^ Nat.log2 m) ((M : Int) - Nat.log2 m) := scaled_lt_scaled hlt _
    _ = (2 : ℚ) ^ (M : Int) := by rw [scaled_two_pow, add_sub_cancel]
    _ = ((2 ^ M : Nat) : ℚ) := by push_cast; exact zpow_natCast 2 M

/-- R151: before the carry the exponent field is below emask and n at most 2^M. -/
theorem encFields_bounds {m E M : Nat} {t : Int} {f : Nat × Nat} (hE : 1 ≤ E) (hm : 0 < m)
    (h : encFields m t E M = some f) : f.1 < emask E ∧ f.2 ≤ 2 ^ M := by
  have hpos := emask_pos hE
  have hmax : ilog2 m t ≤ maxExp E := by
    by_contra hgt
    cases (encFields_of_overflow (not_le.1 hgt) M).symm.trans h
  rcases lt_or_ge (ilog2 m t) (minExp E) with hmin | hmin
  · obtain rfl := Option.some.inj ((encFields_of_subnormal hmax hmin M).symm.trans h)
    exact ⟨hpos, rhaz_le_of_subnormal hmin M⟩
  · obtain rfl := Option.some.inj ((encFields_of_normal hmax hmin M).symm.trans h)
    refine ⟨?_, rhaz_le_of_normal hm M⟩
    have hcast : (emask E : ℤ) = 2 ^ E - 1 := by rw [emask, Nat.cast_sub Nat.one_le_two_pow]; norm_num
    rw [maxExp] at hmax
    change (ilog2 m t + bias E).toNat < emask E
    omega

/-- Below the overflow the fields are those of R151, computed from the exact fraction f of the magnitude. -/
theorem encFields_of_rule {m E : Nat} {t : Int} (hm : 0 < m) (hmax : ilog2 m t ≤ maxExp E) (M : Nat) {f : ℚ} {ef n : ℤ}
    (hf : f = if ilog2 m t < minExp E then
        scaled m t / (2 : ℚ) ^ ilog2 m t * (2 : ℚ) ^ (ilog2 m t - minExp E)
      else scaled m t / (2 : ℚ) ^ ilog2 m t - 1)
    (hef : ef = if ilog2 m t < minExp E then 0 else ilog2 m t + bias E) (hn : n = ⌊f * (2 : ℚ) ^ M + 1 / 2⌋) :
    ∃ g : Nat × Nat, encFields m t E M = some g ∧ (g.1 : ℤ) = ef ∧ (g.2 : ℤ) = n := by
  rcases lt_or_ge (ilog2 m t) (minExp E) with hmin | hmin
  · rw [if_pos hmin] at hf hef
    refine ⟨_, encFields_of_subnormal hmax hmin M, hef.symm, ?_⟩
    rw [hn, hf, ← scaled_of_subnormal]
    exact rhaz_eq_floor _ _
  · rw [if_neg (not_lt.2 hmin)] at hf hef
    refine ⟨_, encFields_of_normal hmax hmin M, ?_, ?_⟩
    · have hnonneg : 0 ≤ ilog2 m t + bias E := by rw [minExp] at hmin; omega
      exact (Int.toNat_of_nonneg hnonneg).trans hef.symm
    · rw [hn, hf, ← scaled_of_normal hm]
      exact rhaz_eq_floor _ _

/-- A carry of n = 2^M into the exponent field is the carry of the sum (R156). -/
theorem carry_eq_sum (ef n : ℤ) (M : Nat) :
    (if n = 2 ^ M then (ef + 1) * 2 ^ M else ef * 2 ^ M + n) = ef * 2 ^ M + n := by
  split_ifs with h
  · rw [h]
    ring
  · rfl

/-- The carry leaves the sum of the fields as it is (R156). -/
theorem carryFields_value (M : Nat) (f : Nat × Nat) :
    (carryFields M f).1 * 2 ^ M + (carryFields M f).2 = f.1 * 2 ^ M + f.2 := by
  rw [carryFields]
  split_ifs with h
  · rw [h]
    ring
  · rfl

/-- After the carry both fields fit (R151, R157). -/
theorem carryFields_fit {E M : Nat} {f : Nat × Nat} (hef : f.1 < emask E) (hn : f.2 ≤ 2 ^ M) :
    (carryFields M f).1 < 2 ^ E ∧ (carryFields M f).2 < 2 ^ M := by
  rw [emask] at hef
  rw [carryFields]
  split_ifs with h
  · exact ⟨by omega, Nat.two_pow_pos M⟩
  · exact ⟨by omega, lt_of_le_of_ne hn h⟩

/-! ### ENC_CORE in each branch (R151) -/

theorem encCore_of_nan {v : Word64} (h : f64IsNaN v = true) (E M : Nat) : encCore v E M = nanPattern E M :=
  if_pos h

theorem encCore_of_inf {v : Word64} (h : f64IsInf v = true) (E M : Nat) :
    encCore v E M = infPattern (f64Sign v) E M := by
  rw [encCore, f64IsNaN_of_isInf h, if_neg Bool.false_ne_true, if_pos h]

theorem encCore_of_zero {v : Word64} (h : f64IsZero v = true) (E M : Nat) :
    encCore v E M = assemblePattern (f64Sign v) 0 0 E M := by
  have hv := F64Finite.of_isZero h
  rw [encCore, hv.isNaN, hv.isInf, if_neg Bool.false_ne_true, if_neg Bool.false_ne_true, if_pos h]

theorem encCore_of_overflow {v : Word64} (hv : F64Finite v) (hz : f64IsZero v = false) {E : Nat}
    (h : maxExp E < ilog2 (f64Sig v) (f64Exp v)) (M : Nat) : encCore v E M = infPattern (f64Sign v) E M := by
  simp only [encCore, hv.isNaN, hv.isInf, hz, Bool.false_eq_true, if_false, encFields_of_overflow h]

theorem encCore_of_encFields {v : Word64} (hv : F64Finite v) (hz : f64IsZero v = false) {E M : Nat} {f : Nat × Nat}
    (h : encFields (f64Sig v) (f64Exp v) E M = some f) :
    encCore v E M = assemblePattern (f64Sign v) (carryFields M f).1 (carryFields M f).2 E M := by
  simp only [encCore, hv.isNaN, hv.isInf, hz, Bool.false_eq_true, if_false, h]

theorem emask_lt (E : Nat) : emask E < 2 ^ E := Nat.sub_lt (Nat.two_pow_pos E) one_pos

theorem nanMantissa_lt (M : Nat) : (if 0 < M then 2 ^ (M - 1) else 0) < 2 ^ M := by
  split_ifs with h
  · exact Nat.pow_lt_pow_right one_lt_two (by omega)
  · exact Nat.two_pow_pos M

theorem infPattern_toNat {E M : Nat} (hl : LegalLayout E M) (s : Bool) :
    (infPattern s E M).toNat = (if s then 2 ^ (1 + E + M - 1) else 0) + (2 ^ E - 1) * 2 ^ M := by
  rw [infPattern, assemblePattern_toNat hl (emask_lt E) (Nat.two_pow_pos M), signWeight_eq, ← add_mul]
  rfl

/-- A finite nonzero operand that does not overflow: sign, exponent field and n, the carry being that of the sum. -/
theorem encCore_toNat_of_encFields {v : Word64} (hv : F64Finite v) (hz : f64IsZero v = false) {E M : Nat}
    (hl : LegalLayout E M) {f : Nat × Nat} (h : encFields (f64Sig v) (f64Exp v) E M = some f) :
    (encCore v E M).toNat = (if f64Sign v then 2 ^ (1 + E + M - 1) else 0) + (f.1 * 2 ^ M + f.2) := by
  obtain ⟨hef, hn⟩ := encFields_bounds hl.1 (f64Sig_pos hz) h
  obtain ⟨hef', hn'⟩ := carryFields_fit hef hn
  rw [encCore_of_encFields hv hz h, assemblePattern_toNat hl hef' hn', signWeight_eq, add_mul, add_assoc,
    carryFields_value]

/-! ### The statements -/

/-- Settles O42: the operand's binade fixes exp, and the fields ENC_CORE computes on m · 2^t are the rule's; a carry of
n into the exponent field is that of the sum. -/
theorem encCoreGivesThePatternOfItsRule : Obligations.EncCoreGivesThePatternOfItsRule := by
  intro v E M hl
  refine ⟨fun h => ?_, fun h => ?_, fun h => ?_, fun hv hz exp hlow hhigh => ?_⟩
  · rw [encCore_of_nan h, nanPattern, assemblePattern_toNat hl (emask_lt E) (nanMantissa_lt M), emask]
    simp
  · rw [encCore_of_inf h]
    exact infPattern_toNat hl _
  · rw [encCore_of_zero h, assemblePattern_toNat hl (Nat.two_pow_pos E) (Nat.two_pow_pos M), ← f64Sign, signWeight_eq]
    rfl
  · rw [abs_f64Value] at hlow hhigh ⊢
    obtain rfl := ilog2_unique (f64Sig_pos hz) hlow hhigh
    rw [← bias_cast, ← maxExp, ← minExp]
    refine ⟨fun h => ?_, fun hmax f ef n hf hef hn => ?_⟩
    · rw [encCore_of_overflow hv hz h]
      exact infPattern_toNat hl _
    · obtain ⟨g, hg, rfl, rfl⟩ := encFields_of_rule (f64Sig_pos hz) hmax M hf hef hn
      rw [encCore_toNat_of_encFields hv hz hl hg, carry_eq_sum, f64Sign]
      push_cast
      rfl

/-- Settles O44: the NaN pattern is an assembly, whose fields can be read back; with M = 0 it has no mantissa bit. -/
theorem everyNaNEncodesToOnePattern : Obligations.EveryNaNEncodesToOnePattern := by
  intro v E M hl h
  have hsign := signField_assemblePattern hl (emask_lt E) (nanMantissa_lt M) false
  have hexp := expField_assemblePattern hl (emask_lt E) (nanMantissa_lt M) false
  have hmant := mantField_assemblePattern hl (emask_lt E) (nanMantissa_lt M) false
  rw [encCore_of_nan h, nanPattern]
  refine ⟨hsign, hexp, fun hM => hmant.trans (if_pos hM), ?_⟩
  rintro rfl
  rw [decCore_sign, decCore_of_inf hexp (Nat.mod_one _)]
  refine ⟨?_, rfl, hsign⟩
  rw [assemblePattern_toNat hl (emask_lt E) (nanMantissa_lt 0), emask]
  simp

/-- Settles O45: both patterns are assemblies, whose fields can be read back. -/
theorem infinitiesAndZerosKeepTheirSign : Obligations.InfinitiesAndZerosKeepTheirSign := by
  intro v E M hl
  have hef := Nat.two_pow_pos E
  have hn := Nat.two_pow_pos M
  refine ⟨fun h => ?_, fun h => ?_, ?_⟩
  · rw [encCore_of_inf h]
    exact ⟨signField_assemblePattern hl (emask_lt E) hn _, expField_assemblePattern hl (emask_lt E) hn _,
      mantField_assemblePattern hl (emask_lt E) hn _⟩
  · rw [encCore_of_zero h]
    exact ⟨signField_assemblePattern hl hef hn _, expField_assemblePattern hl hef hn _,
      mantField_assemblePattern hl hef hn _⟩
  · have hsign : f64Sign 0x8000000000000000#64 = true := by decide
    apply BitVec.eq_of_toNat_eq
    rw [encCore_of_zero (by decide), assemblePattern_toNat hl hef hn, signBit_toNat hl, hsign]
    rfl

end Sys2Proof.Machine
end

section
/-! The encode commands (42_encode.md R160, R163): what ENCODE hands to the re-decode first, then the statements. -/

namespace Sys2Proof.Machine

theorem exec_encode_of_narrow {s : State} (h : s.total ≤ 64) (v : Word64) :
    exec (.encode v) s = .next (redecode { s with bits := encCore v s.widthE s.widthM, srcv := true }) :=
  if_neg (mt (wide_iff s).1 (Nat.not_lt.2 h))

theorem exec_encode_of_wide {s : State} (h : 64 < s.total) (v : Word64) :
    exec (.encode v) s = .next (redecode s) := if_pos ((wide_iff s).2 h)

/-- Settles O24: a narrow layout re-decodes the stored pattern, a wide one the state as it was. -/
theorem encodeStoresAndDecodesThePattern : Obligations.EncodeStoresAndDecodesThePattern := by
  intro s v
  rcases Nat.lt_or_ge 64 s.total with hw | hn
  · have hr := redecode_spec s
    obtain ⟨hstatus, hresults, hbits⟩ := hr.wide hw
    have hsrcv : (redecode s).srcv = s.srcv := by rw [hr.frame]
    exact ⟨_, exec_encode_of_wide hw v, fun hn => absurd hw (Nat.not_lt.2 hn),
      fun _ => ⟨hr, hstatus, hbits, hsrcv, hresults⟩⟩
  · have hr := redecode_spec { s with bits := encCore v s.widthE s.widthM, srcv := true }
    obtain ⟨_, hstatus, _⟩ := hr.decoded hn rfl
    exact ⟨_, exec_encode_of_narrow hn v, fun _ => ⟨hr, hstatus⟩, fun hw => absurd hw (Nat.not_lt.2 hn)⟩

/-- Settles O25: ENCERR's arm raises ERR_FLOAT in STATUS alone. -/
theorem encerrWritesStatusAlone : Obligations.EncerrWritesStatusAlone := fun _ => rfl

end Sys2Proof.Machine
end

section
/-! The statuses (60_exceptions.md R182, R184): the status a re-decode leaves and the three ways a command can end first,
then the statements. -/

namespace Sys2Proof.Machine

/-! ### The status of a re-decode -/

theorem redecode_status (s : State) : (redecode s).status = redecodeStatus s.total s.srcv s.srcb := by
  have hr := redecode_spec s
  rcases Nat.lt_or_ge 64 s.total with hw | hn
  · obtain ⟨hstatus, -, -⟩ := hr.wide hw
    rw [hstatus, redecodeStatus, if_pos hw]
  · rw [redecodeStatus, if_neg (Nat.not_lt.2 hn)]
    cases hv : s.srcv with
    | false =>
      obtain ⟨hstatus, -, -⟩ := hr.pending hn hv
      exact hstatus
    | true =>
      obtain ⟨-, hstatus, -⟩ := hr.decoded hn hv
      exact hstatus

theorem redecodeStatus_of_narrow {total : Nat} (h : total ≤ 64) (srcv : Bool) (srcb : ParseBase) :
    redecodeStatus total srcv srcb = if srcv then .ok else parseErrorStatus srcb := if_neg (Nat.not_lt.2 h)

/-- A re-decode raises decode-side errors alone (R180, R181). -/
theorem redecode_status_ne_other (s : State) :
    ¬ ((redecode s).status = .errFloat ∨ (redecode s).status = .errLayout ∨ (redecode s).status = .errCmd) := by
  rw [redecode_status, redecodeStatus]
  split_ifs
  · decide
  · decide
  · cases s.srcb <;> decide

/-! ### How a command ends -/

/-- Everything a command can do: NOP changes nothing, an error that is not decode-side changes STATUS alone, and every
other command ends in a re-decode (R122, R182). -/
theorem exec_cases (i : Instr) (s : State) :
    (i = .nop ∧ exec i s = .next s) ∨
    (∃ code, (code = .errFloat ∨ code = .errLayout ∨ code = .errCmd) ∧ exec i s = .next { s with status := code }) ∨
    (∃ u, exec i s = .next (redecode u)) := by
  cases i with
  | nop => exact .inl ⟨rfl, rfl⟩
  | setfmt tag =>
    rcases Nat.lt_or_ge 8 tag.toNat with h | h
    · exact .inr (.inl ⟨.errCmd, by decide, exec_setfmt_of_reserved h s⟩)
    · exact .inr (.inr ⟨_, exec_setfmt_of_legal h s⟩)
  | setlay le lm =>
    by_cases h : s.fmt ≠ customTag ∨ le = 0#6
    · exact .inr (.inl ⟨.errLayout, by decide, exec_setlay_of_refused h lm⟩)
    · obtain ⟨hf, hle⟩ := not_or.1 h
      exact .inr (.inr ⟨_, exec_setlay_of_legal (not_not.1 hf) hle lm⟩)
  | decode b => exact .inr (.inr ⟨_, exec_decode b s⟩)
  | encode v =>
    rcases Nat.lt_or_ge 64 s.total with hw | hn
    · exact .inr (.inr ⟨_, exec_encode_of_wide hw v⟩)
    · exact .inr (.inr ⟨_, exec_encode_of_narrow hn v⟩)
  | decerr base => exact .inr (.inr ⟨_, exec_decerr base s⟩)
  | encerr => exact .inr (.inl ⟨.errFloat, by decide, encerrWritesStatusAlone s⟩)

/-! ### The status of each command -/

/-- A tag that is not refused is Custom's, whose layout may be wide, or a preset's, whose layout is narrow (R104). -/
theorem exec_setfmt_status (tag : BitVec 4) (s : State) :
    ∃ t, exec (.setfmt tag) s = .next t ∧ t.status = statusAfter (.setfmt tag) s := by
  rcases Nat.lt_or_ge 8 tag.toNat with h | h
  · exact ⟨_, exec_setfmt_of_reserved h s, (if_pos h).symm⟩
  · rw [statusAfter, if_neg (Nat.not_lt.2 h)]
    obtain rfl | ⟨e, m, hp, -, htotal⟩ := preset_of_legal_tag tag h
    · exact ⟨_, exec_setfmt_custom s, redecode_status _⟩
    · have hne : tag ≠ 8#4 := by
        rintro rfl
        cases hp
      have hnarrow : totalBits e.toNat m.toNat ≤ 64 := by omega
      rw [if_neg hne, ← redecodeStatus_of_narrow hnarrow]
      exact ⟨_, exec_setfmt_preset hp s, redecode_status _⟩

theorem exec_setlay_status (le lm : BitVec 6) (s : State) :
    ∃ t, exec (.setlay le lm) s = .next t ∧ t.status = statusAfter (.setlay le lm) s := by
  by_cases h : s.fmt ≠ customTag ∨ le = 0#6
  · exact ⟨_, exec_setlay_of_refused h lm, (if_pos h).symm⟩
  · obtain ⟨hf, hle⟩ := not_or.1 h
    exact ⟨_, exec_setlay_of_legal (not_not.1 hf) hle lm, (redecode_status _).trans (if_neg h).symm⟩

theorem exec_encode_status (v : Word64) (s : State) :
    ∃ t, exec (.encode v) s = .next t ∧ t.status = statusAfter (.encode v) s := by
  rcases Nat.lt_or_ge 64 s.total with hw | hn
  · rw [statusAfter, if_pos hw]
    exact ⟨_, exec_encode_of_wide hw v, (redecode_status s).trans (if_pos hw)⟩
  · rw [statusAfter, if_neg (Nat.not_lt.2 hn)]
    exact ⟨_, exec_encode_of_narrow hn v, (redecode_status _).trans (redecodeStatus_of_narrow hn _ _)⟩

/-! ### The statements -/

/-- Settles O26: an accepted command leaves the status of its re-decode, and the decoder rejects an illegal word. -/
theorem firstErrorWins : Obligations.FirstErrorWins := by
  refine ⟨fun i s => ?_, fun c s h => ⟨_, runCommand_of_error (decodeCommand_illegal c h) s, rfl⟩⟩
  cases i with
  | nop => exact ⟨s, rfl, rfl⟩
  | setfmt tag => exact exec_setfmt_status tag s
  | setlay le lm => exact exec_setlay_status le lm s
  | decode b => exact ⟨_, exec_decode b s, redecode_status _⟩
  | encode v => exact exec_encode_status v s
  | decerr base => exact ⟨_, exec_decerr base s, redecode_status _⟩
  | encerr => exact ⟨_, encerrWritesStatusAlone s, rfl⟩

/-- Settles O27: of the ways a command can end, a re-decode alone writes more than STATUS, and it leaves no such code. -/
theorem otherErrorsWriteStatusAlone : Obligations.OtherErrorsWriteStatusAlone := by
  intro c s t hrun hstatus
  have hnext {u : State} (hu : runCommand c s = .next u) : t = u := Host.Outcome.next.inj (hrun.symm.trans hu)
  cases hd : decodeCommand c with
  | error r =>
    rw [hnext (runCommand_of_error hd s)]
  | ok i =>
    have hexec := runCommand_of_ok hd s
    obtain ⟨-, h⟩ | ⟨code, -, h⟩ | ⟨u, h⟩ := exec_cases i s
    · rw [hnext (hexec.trans h)]
    · rw [hnext (hexec.trans h)]
    · rw [hnext (hexec.trans h)] at hstatus
      exact absurd hstatus (redecode_status_ne_other u)

end Sys2Proof.Machine
end

section
/-! Reset, acceptance and the latency of a command (70_reset_and_hazards.md R200, R203, R204): the edges around a command
and the states that differ in CMDQ and the count of edges alone first, then the statements. -/

namespace Sys2Proof.Machine

/-! ### Edges -/

theorem pins_eq_presentPins {p : Pins} (hr : p.rst = false) (hv : p.cmdValid = true) : p = presentPins p.command := by
  rw [presentPins, ← hr, ← hv]
  rfl

/-- With P_LAT of at least 2 the accepting edge puts the sampled words in flight (R203). -/
theorem step_of_presented {s : State} {p : Pins} {ps : List Pins} (hp : s.pins = p :: ps) (hr : p.rst = false)
    (hv : p.cmdValid = true) (hb : s.busy = false) (hl : s.pLatPred ≠ 0) :
    step s = .next { s with pins := ps, cmdq := p.command, busy := true, edgesLeft := s.pLatPred } := by
  have hs : step s = accept p.command { s with pins := ps } := (step_of_pins hp).trans (edge_of_presented hr hb hv)
  obtain ⟨h0, -⟩ | ⟨-, e⟩ := accept_cases p.command { s with pins := ps }
  · exact absurd h0 hl
  · exact hs.trans e

/-- While a command is in flight the command port is ignored (R203). -/
theorem edge_eq_of_busy {p q : Pins} {s : State} (hp : p.rst = false) (hq : q.rst = false) (hb : s.busy = true) :
    edge p s = edge q s := by simp [edge, hp, hq, hb]

/-- Nothing is sampled while a command is in flight (R203). -/
theorem edge_cmdq_of_busy {p : Pins} {s : State} (hr : p.rst = false) (hb : s.busy = true) :
    ∃ t, edge p s = .next t ∧ t.cmdq = s.cmdq := by
  rcases Nat.lt_or_ge 1 s.edgesLeft with hl | hl
  · exact ⟨_, edge_of_in_flight hr hb hl, rfl⟩
  · obtain ⟨t, ht⟩ := runCommand_total s.cmdq { s with busy := false, edgesLeft := 0 }
    have hq := congrArg State.cmdq (runCommand_hidden _ _ _ ht)
    exact ⟨t, (edge_of_commit hr hb hl).trans ht, hq.symm⟩

/-- Edges before the commit edge take the pins and count down; nothing else changes (R204). -/
theorem runEdges_before_commit {qs ps : List Pins} {s : State} (hb : s.busy = true) (hq : NoReset qs)
    (hl : qs.length < s.edgesLeft) (hp : s.pins = qs ++ ps) :
    runEdges qs.length s = .next { s with pins := ps, edgesLeft := s.edgesLeft - qs.length } := by
  induction qs generalizing s with
  | nil =>
    subst hp
    rfl
  | cons q qs ih =>
    obtain ⟨hr, hq'⟩ := List.forall_mem_cons.1 hq
    rw [List.length_cons] at hl
    have hs : step s = .next { s with pins := qs ++ ps, edgesLeft := s.edgesLeft - 1 } :=
      (step_of_pins hp).trans (edge_of_in_flight hr hb (Nat.lt_of_le_of_lt (Nat.le_add_left 1 qs.length) hl))
    have hl' : qs.length < s.edgesLeft - 1 := Nat.lt_sub_of_add_lt hl
    have hrun := (runEdges_succ qs.length hs).trans
      (ih (s := { s with pins := qs ++ ps, edgesLeft := s.edgesLeft - 1 }) hb hq' hl' rfl)
    rw [List.length_cons, hrun, Nat.sub_sub, Nat.add_comm 1]

/-! ### The command against the registers as they were -/

/-- A command word reads neither CMDQ nor the count of edges, and keeps both (R37). -/
theorem runCommand_with_queue {c : Command} {s u : State} (d : Command) (n : Nat) (h : runCommand c s = .next u) :
    runCommand c { s with cmdq := d, edgesLeft := n } = .next { u with cmdq := d, edgesLeft := n } := by
  have hu : u.withHidden { s with cmdq := d, edgesLeft := n } = { u with cmdq := d, edgesLeft := n } :=
    congrArg (fun x : State => { x with cmdq := d, edgesLeft := n }) (runCommand_hidden c s u h)
  rw [← hu]
  exact runCommand_withHidden c { s with cmdq := d, edgesLeft := n } s u h

/-- P_LAT edges from the accepting edge on leave what the command leaves of the registers as they were, CMDQ and the
count of edges excepted (R203, R204). -/
theorem runEdges_pLat_of_presented {s u : State} {c : Command} {qs ps : List Pins} (hb : s.busy = false)
    (hp : s.pins = presentPins c :: (qs ++ ps)) (hl : qs.length = s.pLatPred) (hq : NoReset qs)
    (hu : runCommand c { s with pins := ps } = .next u) :
    runEdges s.pLat s = .next { u with cmdq := c, edgesLeft := 0 } := by
  rw [State.pLat, ← hl, runEdges_presented hb hq hl hp]
  exact runCommand_with_queue c 0 hu

/-- At the edges from the accepting edge on and before the commit edge the command is in flight and the output registers
are as they were (R204). -/
theorem runEdges_of_presented_before_commit {s : State} {c : Command} {qs ps : List Pins} (hb : s.busy = false)
    (hp : s.pins = presentPins c :: (qs ++ ps)) (hq : NoReset qs) (hl : qs.length < s.pLatPred) :
    runEdges (qs.length + 1) s =
      .next { s with pins := ps, cmdq := c, busy := true, edgesLeft := s.pLatPred - qs.length } := by
  have hs := step_of_presented hp rfl rfl hb (by omega)
  exact (runEdges_succ qs.length hs).trans (runEdges_before_commit rfl hq hl rfl)

/-! ### The statements -/

/-- Settles O3: `edge_of_rst`, and the values of `State.reset` by evaluation. -/
theorem resetEdgeGivesTheResetValues : Obligations.ResetEdgeGivesTheResetValues := by
  intro s hr
  have hexp2 : State.reset.exp2 = BitVec.ofInt 64 (-149) := by decide
  exact ⟨_, edge_of_rst s.takePins hr, rfl, rfl, rfl, rfl, rfl, rfl, rfl, rfl, rfl, rfl, rfl, hexp2, rfl, rfl⟩

/-- Settles O6: one rule of an edge for each clause. -/
theorem acceptanceNeedsValidAndReady : Obligations.AcceptanceNeedsValidAndReady := by
  refine ⟨fun s p ps hp hr hv hb hl => ?sampled, fun s p ps hp hr hv hb hl => ?run, fun s p q ps hp hq => ?reset,
    fun s p ps hp hr hv hb => ?idle, fun s p q ps hp hq hb => ?busy⟩
  case sampled =>
    have hl' : s.pLatPred ≠ 0 := by
      rw [State.pLat] at hl
      omega
    exact ⟨_, step_of_presented hp hr hv hb hl', rfl, rfl, rfl⟩
  case run =>
    obtain ⟨u, hu⟩ := runCommand_total p.command { s with pins := ps }
    rw [pins_eq_presentPins hr hv] at hp
    have hrun := runEdges_pLat_of_presented (qs := []) hb hp (Nat.succ.inj hl).symm (List.forall_mem_nil _) hu
    rw [hl, runEdges_one] at hrun
    exact ⟨_, u, hrun, hu, rfl⟩
  case reset => exact ⟨_, _, edge_of_rst _ hp, edge_of_rst _ hq, rfl, rfl⟩
  case idle => exact ⟨_, (step_of_pins hp).trans (edge_of_idle hr hb hv), rfl⟩
  case busy =>
    obtain ⟨t, ht, hcmdq⟩ := edge_cmdq_of_busy (s := { s with pins := ps }) hp hb
    exact ⟨t, t, ht, (edge_eq_of_busy (s := { s with pins := ps }) hq hp hb).trans ht, rfl, fun _ => ⟨rfl, hcmdq⟩⟩

/-- Settles O7: the first j - 1 pins of `q` before the commit edge, all of them at it. -/
theorem commandCommitsAfterPLatEdges : Obligations.CommandCommitsAfterPLatEdges := by
  intro s c q ps hb hp hlen hq
  have hl : q.length = s.pLatPred := hlen
  refine ⟨fun j h1 hj => ?before, ?commit⟩
  case before =>
    obtain ⟨n, rfl⟩ : ∃ n, j = n + 1 := ⟨j - 1, by omega⟩
    have hn : n < s.pLatPred := hj
    have hlen' : (q.take n).length = n := List.length_take_of_le (by omega)
    have hp' : s.pins = presentPins c :: (q.take n ++ (q.drop n ++ ps)) := by
      rw [hp, ← List.append_assoc, List.take_append_drop]
    have hrun := runEdges_of_presented_before_commit hb hp' (fun p h => hq p (List.mem_of_mem_take h))
      (by rw [hlen']; exact hn)
    rw [hlen'] at hrun
    exact ⟨_, hrun, rfl, rfl⟩
  case commit =>
    obtain ⟨u, hu⟩ := runCommand_total c { s with pins := ps }
    have hready : u.busy = false := (runCommand_busy hu).trans hb
    exact ⟨_, u, runEdges_pLat_of_presented hb hp hl hq hu, hu, rfl, (outputs_cmdReady _).trans (by simp [hready])⟩

end Sys2Proof.Machine
end

section
/-! Decoding and encoding agree (30_encoding.md R81 to R87): the fields of the encoder's words, and the words that agree
on the bits a command reads first, then the statements. -/

namespace Sys2Proof.Machine

/-! ### The encoder's words decode to their instruction -/

theorem cwOp_encodeCommand_setlay (le lm : BitVec 6) : cwOp (encodeCommand (.setlay le lm)).word = 2#4 := by
  rw [encodeCommand, cwOp]
  ext i hi
  interval_cases i <;> simp

theorem cwLe_encodeCommand_setlay (le lm : BitVec 6) : cwLe (encodeCommand (.setlay le lm)).word = le := by
  rw [encodeCommand, cwLe]
  ext i hi
  interval_cases i <;> simp

theorem cwLm_encodeCommand_setlay (le lm : BitVec 6) : cwLm (encodeCommand (.setlay le lm)).word = lm := by
  rw [encodeCommand, cwLm]
  ext i hi
  interval_cases i <;> simp

theorem decodeCommand_encodeCommand (i : Instr) : decodeCommand (encodeCommand i) = .ok i := by
  cases i with
  | nop => rfl
  | setfmt tag =>
    revert tag
    decide
  | setlay le lm =>
    rw [decodeCommand_setlay _ (cwOp_encodeCommand_setlay le lm), cwLe_encodeCommand_setlay, cwLm_encodeCommand_setlay]
  | decode b =>
    have hop : cwOp 0x30000000#32 = 3#4 := by decide
    exact decodeCommand_decode _ hop
  | encode v =>
    have hop : cwOp 0x40000000#32 = 4#4 := by decide
    exact decodeCommand_encode _ hop
  | decerr base => cases base <;> rfl
  | encerr => rfl

/-- The encoder leaves 0 every bit, and every data word, that the command does not read (R92, R94). -/
theorem encodedWord (i : Instr) : Laws.EncodedWord.Statement i := by
  cases i with
  | nop => exact Laws.EncodedWord.nop
  | setfmt tag => exact Laws.EncodedWord.setfmt tag
  | setlay le lm => exact Laws.EncodedWord.setlay le lm
  | decode b => exact Laws.EncodedWord.decode b
  | encode v => exact Laws.EncodedWord.encode v
  | decerr base => exact Laws.EncodedWord.decerr base
  | encerr => exact Laws.EncodedWord.encerr

/-! ### Words that agree on the bits a command reads -/

theorem getLsbD_eq_of_extractLsb'_eq {w x : CmdWord} {start len i : Nat}
    (h : w.extractLsb' start len = x.extractLsb' start len) (hlow : start ≤ i) (hhigh : i < start + len) :
    w.getLsbD i = x.getLsbD i := by
  have hbit := congrArg (fun b => b.getLsbD (i - start)) h
  simpa [BitVec.getLsbD_extractLsb', show i - start < len by omega, Nat.add_sub_cancel' hlow] using hbit

theorem and_eq_and_of_getLsbD_eq {w x m : CmdWord}
    (h : ∀ i < 32, m.getLsbD i = true → w.getLsbD i = x.getLsbD i) : w &&& m = x &&& m := by
  apply BitVec.eq_of_getLsbD_eq
  intro i hi
  rw [BitVec.getLsbD_and, BitVec.getLsbD_and]
  cases hm : m.getLsbD i with
  | false => rw [Bool.and_false, Bool.and_false]
  | true => rw [h i hi hm]

/-- A mask that keeps OP alone. -/
theorem and_opMask_eq {w x : CmdWord} (hop : cwOp w = cwOp x) : w &&& 0xF0000000#32 = x &&& 0xF0000000#32 := by
  have hmask : ∀ i < 32, (0xF0000000#32).getLsbD i = true → 28 ≤ i := by decide
  exact and_eq_and_of_getLsbD_eq fun i hi hm => getLsbD_eq_of_extractLsb'_eq hop (hmask i hi hm) hi

theorem getLsbD_zero_of_cwBase_eq {w x : CmdWord} (h : cwBase w = cwBase x) : w.getLsbD 0 = x.getLsbD 0 := by
  rw [cwBase, cwBase] at h
  revert h
  cases w.getLsbD 0 <;> cases x.getLsbD 0 <;> decide

/-- The fields of the command that make it `i`: OP, its arguments, and the data word where it reads one (R82 to R87). -/
def HoldsFieldsOf (i : Instr) (c : Command) : Prop :=
  match i with
  | .nop => cwOp c.word = 0#4
  | .setfmt tag => cwOp c.word = 1#4 ∧ cwTag c.word = tag
  | .setlay le lm => cwOp c.word = 2#4 ∧ cwLe c.word = le ∧ cwLm c.word = lm
  | .decode b => cwOp c.word = 3#4 ∧ c.data = b
  | .encode v => cwOp c.word = 4#4 ∧ c.data = v
  | .decerr base => cwOp c.word = 5#4 ∧ cwBase c.word = base
  | .encerr => cwOp c.word = 6#4

theorem decodeCommand_of_holdsFields {i : Instr} {c : Command} (h : HoldsFieldsOf i c) : decodeCommand c = .ok i := by
  cases i with
  | nop => exact decodeCommand_nop c h
  | setfmt tag =>
    obtain ⟨hop, rfl⟩ := h
    exact decodeCommand_setfmt c hop
  | setlay le lm =>
    obtain ⟨hop, rfl, rfl⟩ := h
    exact decodeCommand_setlay c hop
  | decode b =>
    obtain ⟨hop, rfl⟩ := h
    exact decodeCommand_decode c hop
  | encode v =>
    obtain ⟨hop, rfl⟩ := h
    exact decodeCommand_encode c hop
  | decerr base =>
    obtain ⟨hop, rfl⟩ := h
    exact decodeCommand_decerr c hop
  | encerr => exact decodeCommand_encerr c h

theorem decodeCommand_eq_ok_iff (i : Instr) (c : Command) : decodeCommand c = .ok i ↔ HoldsFieldsOf i c := by
  refine ⟨fun h => ?_, decodeCommand_of_holdsFields⟩
  obtain ⟨h0, rfl⟩ | ⟨h1, rfl⟩ | ⟨h2, rfl⟩ | ⟨h3, rfl⟩ | ⟨h4, rfl⟩ | ⟨h5, rfl⟩ | ⟨h6, rfl⟩ := decodeCommand_ok_cases h
  · exact h0
  · exact ⟨h1, rfl⟩
  · exact ⟨h2, rfl, rfl⟩
  · exact ⟨h3, rfl⟩
  · exact ⟨h4, rfl⟩
  · exact ⟨h5, rfl⟩
  · exact h6

/-- Two commands with the fields of one instruction hold the same bits wherever it reads the word (R82 to R85). -/
theorem and_readMask_eq_of_holdsFields {i : Instr} {c d : Command} (hc : HoldsFieldsOf i c) (hd : HoldsFieldsOf i d) :
    c.word &&& i.readMask = d.word &&& i.readMask := by
  cases i with
  | nop => exact and_opMask_eq (hc.trans hd.symm)
  | setfmt tag =>
    obtain ⟨hop, htag⟩ := hc
    obtain ⟨hop', htag'⟩ := hd
    have hmask : ∀ i < 32, (0xF000000F#32).getLsbD i = true → 28 ≤ i ∨ i < 0 + 4 := by decide
    refine and_eq_and_of_getLsbD_eq fun i hi hm => ?_
    obtain h | h := hmask i hi hm
    · exact getLsbD_eq_of_extractLsb'_eq (hop.trans hop'.symm) h hi
    · exact getLsbD_eq_of_extractLsb'_eq (htag.trans htag'.symm) i.zero_le h
  | setlay le lm =>
    obtain ⟨hop, hle, hlm⟩ := hc
    obtain ⟨hop', hle', hlm'⟩ := hd
    have hmask : ∀ i < 32, (0xF0003F3F#32).getLsbD i = true → 28 ≤ i ∨ (8 ≤ i ∧ i < 8 + 6) ∨ i < 0 + 6 := by decide
    refine and_eq_and_of_getLsbD_eq fun i hi hm => ?_
    obtain h | ⟨hlow, hhigh⟩ | h := hmask i hi hm
    · exact getLsbD_eq_of_extractLsb'_eq (hop.trans hop'.symm) h hi
    · exact getLsbD_eq_of_extractLsb'_eq (hle.trans hle'.symm) hlow hhigh
    · exact getLsbD_eq_of_extractLsb'_eq (hlm.trans hlm'.symm) i.zero_le h
  | decode b => exact and_opMask_eq (hc.1.trans hd.1.symm)
  | encode v => exact and_opMask_eq (hc.1.trans hd.1.symm)
  | decerr base =>
    obtain ⟨hop, hbase⟩ := hc
    obtain ⟨hop', hbase'⟩ := hd
    have hmask : ∀ i < 32, (0xF0000001#32).getLsbD i = true → 28 ≤ i ∨ i = 0 := by decide
    refine and_eq_and_of_getLsbD_eq fun i hi hm => ?_
    obtain h | rfl := hmask i hi hm
    · exact getLsbD_eq_of_extractLsb'_eq (hop.trans hop'.symm) h hi
    · exact getLsbD_zero_of_cwBase_eq (hbase.trans hbase'.symm)
  | encerr => exact and_opMask_eq (hc.trans hd.symm)

/-- The ignored bits and an unread data word are no field of any instruction (R92). -/
theorem holdsFields_of_zeroIgnored {i : Instr} {c : Command} (h : HoldsFieldsOf i (zeroIgnored i c)) :
    HoldsFieldsOf i c := by
  have hop := cwOp_zeroIgnored i c
  cases i with
  | nop => exact hop.symm.trans h
  | setfmt tag =>
    obtain ⟨h1, h2⟩ := h
    exact ⟨hop.symm.trans h1, (cwTag_and_readMask c.word tag).symm.trans h2⟩
  | setlay le lm =>
    obtain ⟨h1, h2, h3⟩ := h
    exact ⟨hop.symm.trans h1, (cwLe_and_readMask c.word le lm).symm.trans h2,
      (cwLm_and_readMask c.word le lm).symm.trans h3⟩
  | decode b => exact ⟨hop.symm.trans h.1, h.2⟩
  | encode v => exact ⟨hop.symm.trans h.1, h.2⟩
  | decerr base =>
    obtain ⟨h1, h2⟩ := h
    exact ⟨hop.symm.trans h1, (cwBase_and_readMask c.word base).symm.trans h2⟩
  | encerr => exact hop.symm.trans h

theorem data_eq_of_holdsFields {i : Instr} {c d : Command} (hr : i.readsData = true) (hc : HoldsFieldsOf i c)
    (hd : HoldsFieldsOf i d) : c.data = d.data := by
  cases i with
  | decode b => exact hc.2.trans hd.2.symm
  | encode v => exact hc.2.trans hd.2.symm
  | _ => cases hr

/-! ### The statements -/

/-- Settles O14: a command decodes to `i` when it holds the fields of `i`, and the encoder's own command does; the mask
keeps those fields and nothing else. -/
theorem decodingAgreesWithEncoding : Obligations.DecodingAgreesWithEncoding := by
  refine ⟨decodeCommand_encodeCommand, fun c i => ?_⟩
  obtain ⟨-, hword, hdata⟩ := encodedWord i
  have henc := (decodeCommand_eq_ok_iff i _).1 (decodeCommand_encodeCommand i)
  refine ⟨fun h => ?_, fun ⟨hw, hd⟩ => ?_⟩
  · have hc := (decodeCommand_eq_ok_iff i c).1 h
    exact ⟨(and_readMask_eq_of_holdsFields hc henc).trans hword, fun hr => data_eq_of_holdsFields hr hc henc⟩
  · have hzero : zeroIgnored i c = encodeCommand i := by
      rw [zeroIgnored, hw]
      cases hr : i.readsData with
      | false => rw [if_neg Bool.false_ne_true, ← hdata hr]
      | true => rw [if_pos rfl, hd hr]
    rw [← hzero] at henc
    exact decodeCommand_of_holdsFields (holdsFields_of_zeroIgnored henc)

/-- Settles O17: each word written out, by evaluation of the decoder. -/
theorem wordsOfTheSpecDecode : Obligations.WordsOfTheSpecDecode := by
  unfold Obligations.WordsOfTheSpecDecode
  decide

end Sys2Proof.Machine
end

section
/-! Edges (70_reset_and_hazards.md R200 to R204): the commit edge of a command in each of its two places and what every
edge keeps first, then the statements about a step. -/

namespace Sys2Proof.Machine

/-! ### Commit edges -/

/-- With P_LAT = 1 the accepting edge is the commit edge (R204). -/
theorem step_of_presented_single_cycle {s : State} {p : Pins} {ps : List Pins} (hp : s.pins = p :: ps)
    (hr : p.rst = false) (hv : p.cmdValid = true) (hb : s.busy = false) (hl : s.pLatPred = 0) :
    step s = runCommand p.command { s with pins := ps, cmdq := p.command, busy := false, edgesLeft := 0 } := by
  have hs : step s = accept p.command { s with pins := ps } := (step_of_pins hp).trans (edge_of_presented hr hb hv)
  obtain ⟨-, e⟩ | ⟨h0, -⟩ := accept_cases p.command { s with pins := ps }
  · exact hs.trans e
  · exact absurd hl h0

/-- The last edge of a command in flight runs it (R204). -/
theorem step_of_commit {s : State} (hr : s.nextPins.rst = false) (hb : s.busy = true) (hl : s.edgesLeft ≤ 1) :
    step s = runCommand s.cmdq { s with pins := s.pins.tail, busy := false, edgesLeft := 0 } :=
  edge_of_commit (s := s.takePins) hr hb hl

/-- A placed command runs at the next step, whatever P_LAT (log entry 5). -/
theorem step_placeCommand (c : Command) (s : State) :
    step (placeCommand c s) = runCommand c { s with busy := false, cmdq := c, edgesLeft := 0 } := by
  by_cases hl : s.pLatPred = 0
  · have hplace : placeCommand c s = { s with busy := false, pins := presentPins c :: s.pins } := by
      rw [placeCommand, hl]
    rw [hplace]
    exact step_of_presented_single_cycle (p := presentPins c) rfl rfl rfl rfl hl
  · obtain ⟨n, hn⟩ := Nat.exists_eq_succ_of_ne_zero hl
    have hplace : placeCommand c s =
        { s with busy := true, cmdq := c, edgesLeft := 1, pins := idlePins :: s.pins } := by
      rw [placeCommand, hn]
    rw [hplace]
    exact step_of_commit rfl rfl le_rfl

theorem decodeCommand_of_decodeTableWord {nbits w : Nat} {i : Instr} (h : decodeTableWord nbits w = some i) :
    decodeCommand (commandOfBits nbits w) = .ok i := by
  rw [decodeTableWord] at h
  cases hd : decodeCommand (commandOfBits nbits w) with
  | ok j =>
    rw [hd] at h
    rw [Option.some.inj h]
  | error r =>
    rw [hd] at h
    cases h

/-! ### What every edge keeps -/

theorem runCommand_total_keeps (c : Command) (s : State) :
    ∃ t, runCommand c s = .next t ∧ t.pLatPred = s.pLatPred ∧ t.pins = s.pins := by
  obtain ⟨t, ht⟩ := runCommand_total c s
  have hhidden := runCommand_hidden c s t ht
  exact ⟨t, ht, (congrArg State.pLatPred hhidden).symm, (congrArg State.pins hhidden).symm⟩

/-- Every edge answers a next state, with P_LAT and the host's later inputs as they were (R185, R187). -/
theorem edge_total_keeps (p : Pins) (s : State) :
    ∃ t, edge p s = .next t ∧ t.pLatPred = s.pLatPred ∧ t.pins = s.pins := by
  rcases edge_cases p s with ⟨-, e⟩ | ⟨-, -, -, e⟩ | ⟨-, -, -, e⟩ | ⟨-, -, -, e⟩ | ⟨-, -, -, e⟩
  · exact ⟨_, e, rfl, rfl⟩
  · rw [e]
    exact runCommand_total_keeps s.cmdq { s with busy := false, edgesLeft := 0 }
  · exact ⟨_, e, rfl, rfl⟩
  · obtain ⟨-, a⟩ | ⟨-, a⟩ := accept_cases p.command s
    · rw [e, a]
      exact runCommand_total_keeps p.command { s with cmdq := p.command, busy := false, edgesLeft := 0 }
    · exact ⟨_, e.trans a, rfl, rfl⟩
  · exact ⟨_, e, rfl, rfl⟩

/-! ### The statements -/

/-- Settles O4: the two commit edges run the command word, whose decoding is given. -/
theorem stepRunsTheDecodedCommand : Obligations.StepRunsTheDecodedCommand := by
  refine ⟨fun s p ps i hp hr hv hb hl hd => ?_, fun s p ps r hp hr hv hb hl hd => ?_, fun s i hr hb hl hd => ?_,
    fun s r hr hb hl hd => ?_⟩
  · exact (step_of_presented_single_cycle hp hr hv hb hl).trans (runCommand_of_ok hd _)
  · exact (step_of_presented_single_cycle hp hr hv hb hl).trans (runCommand_of_error hd _)
  · exact (step_of_commit hr hb hl).trans (runCommand_of_ok hd _)
  · exact (step_of_commit hr hb hl).trans (runCommand_of_error hd _)

/-- Settles O5: the placed word runs on the state itself but for CMDQ and the count of edges, which no output shows. -/
theorem placedWordRunsAtTheNextStep : Obligations.PlacedWordRunsAtTheNextStep := by
  intro s nbits w i h
  have hrun := runCommand_of_ok (decodeCommand_of_decodeTableWord h)
  obtain ⟨u, hu⟩ := exec_total i { s with busy := false }
  have hplaced := runCommand_with_queue (commandOfBits nbits w) 0 ((hrun _).trans hu)
  exact ⟨_, u, (step_placeCommand _ s).trans hplaced, hu, rfl⟩

/-- Settles O10: a ready edge does not read CMDQ. -/
theorem commandQueueIsNotReadWhileReady : Obligations.CommandQueueIsNotReadWhileReady := by
  intro s c d hb
  obtain ⟨t, d', ht, hu⟩ := edge_with_cmdq_of_ready s.nextPins s.takePins c hb
  exact ⟨t, _, ht, hu, rfl⟩

/-- Settles O11: by `edge_total_keeps`. -/
theorem everyStepAnswersANextState : Obligations.EveryStepAnswersANextState := by
  intro s
  obtain ⟨t, ht, hlat, hpins⟩ := edge_total_keeps s.nextPins s.takePins
  exact ⟨t, ht, congrArg (· + 1) hlat, hpins⟩

/-- Settles O54: P_LAT edges run the presented command with its words in CMDQ; a quiet ready edge and a busy edge sample
nothing. -/
theorem queueKeepsTheLastCommandWhileReady : Obligations.QueueKeepsTheLastCommandWhileReady := by
  refine ⟨fun s c q ps hb hp hlen hq => ?_, fun s hr hv hb => edge_of_idle (s := s.takePins) hr hb hv,
    fun s hr hb => edge_cmdq_of_busy (s := s.takePins) hr hb⟩
  have hl : q.length = s.pLatPred := hlen
  have hrun := runEdges_presented hb hq hl hp
  rwa [hl] at hrun

end Sys2Proof.Machine
end

section
/-! The invariant of a run (10_state.md R23 to R26, 41_decode.md R128, 70_reset_and_hazards.md R204, R209): what a
command hands to its re-decode, and that the re-decode, a status alone and the hidden state keep it first, then the
statements. -/

namespace Sys2Proof.Machine

/-! ### What a re-decode leaves unchanged (R122) -/

section
variable {s t : State} (h : Redecoded s t)
include h

theorem Redecoded.fmt_eq : t.fmt = s.fmt := by rw [h.frame]
theorem Redecoded.layE_eq : t.layE = s.layE := by rw [h.frame]
theorem Redecoded.layM_eq : t.layM = s.layM := by rw [h.frame]
theorem Redecoded.srcv_eq : t.srcv = s.srcv := by rw [h.frame]
theorem Redecoded.srcb_eq : t.srcb = s.srcb := by rw [h.frame]
theorem Redecoded.busy_eq : t.busy = s.busy := by rw [h.frame]
theorem Redecoded.edgesLeft_eq : t.edgesLeft = s.edgesLeft := by rw [h.frame]
theorem Redecoded.pLatPred_eq : t.pLatPred = s.pLatPred := by rw [h.frame]

theorem Redecoded.widthE_eq : t.widthE = s.widthE := congrArg BitVec.toNat h.layE_eq
theorem Redecoded.widthM_eq : t.widthM = s.widthM := congrArg BitVec.toNat h.layM_eq
theorem Redecoded.total_eq : t.total = s.total := congrArg₂ totalBits h.widthE_eq h.widthM_eq

end

/-! ### Consistent results (R209) -/

/-- A re-decode leaves results that agree with the layout, the source and STATUS. -/
theorem Redecoded.consistentAt {s t : State} (h : Redecoded s t) : ConsistentAt t.status t := by
  rw [ConsistentAt, h.total_eq, h.srcv_eq, h.srcb_eq, h.widthE_eq, h.widthM_eq]
  rcases Nat.lt_or_ge 64 s.total with hw | hn
  · obtain ⟨hstatus, hresults, -⟩ := h.wide hw
    exact .inr (.inl ⟨hw, hstatus, hresults⟩)
  · cases hv : s.srcv with
    | false =>
      obtain ⟨hstatus, hresults, -⟩ := h.pending hn hv
      exact .inr (.inr ⟨hn, rfl, hstatus, hresults⟩)
    | true =>
      obtain ⟨-, hstatus, hresults⟩ := h.decoded hn hv
      exact .inl ⟨hn, rfl, hstatus, hresults⟩

theorem Consistent.exists_consistentAt {s : State} (h : Consistent s) : ∃ st, ConsistentAt st s :=
  h.elim (fun h => ⟨_, h⟩) fun h => h.2

/-! ### What a command hands to its re-decode -/

/-- The part of the invariant that speaks of neither the results nor the mask of BITS. A re-decode adds the rest. -/
structure SourceInv (s : State) : Prop where
  fmtLegal : s.fmt.toNat ≤ 8
  layEPositive : s.layE ≠ 0#6
  presetLayout : ∀ e m, preset s.fmt = some (e, m) → s.layE = e ∧ s.layM = m
  pendingBits : s.srcv = false → s.bits = 0#64
  inFlight : s.busy = true → 1 ≤ s.edgesLeft ∧ s.edgesLeft ≤ s.pLatPred

theorem Inv.sourceInv {s : State} (h : Inv s) : SourceInv s :=
  ⟨h.fmtLegal, h.layEPositive, h.presetLayout, h.pendingBits, h.inFlight⟩

/-- Without a valid source a re-decode keeps BITS (R123). -/
theorem Redecoded.bits_eq_of_pending {s t : State} (hr : Redecoded s t) (hv : s.srcv = false) : t.bits = s.bits := by
  rcases Nat.lt_or_ge 64 s.total with hw | hn
  · obtain ⟨-, -, hbits⟩ := hr.wide hw
    exact hbits
  · obtain ⟨-, -, hbits⟩ := hr.pending hn hv
    exact hbits

/-- A re-decode masks BITS or leaves them 0 under a narrow layout. -/
theorem Redecoded.bits_lt {s t : State} (hr : Redecoded s t) (hb : s.srcv = false → s.bits = 0#64)
    (hn : s.total ≤ 64) : t.bits.toNat < 2 ^ s.total := by
  cases hv : s.srcv with
  | false =>
    rw [hr.bits_eq_of_pending hv, hb hv]
    exact Nat.two_pow_pos _
  | true =>
    obtain ⟨hbits, -, -⟩ := hr.decoded hn hv
    rw [hbits, and_lowmask_toNat, Nat.min_eq_left hn]
    exact Nat.mod_lt _ (Nat.two_pow_pos _)

theorem redecode_inv {s : State} (h : SourceInv s) : Inv (redecode s) := by
  have hr := redecode_spec s
  generalize redecode s = t at hr
  exact
    { fmtLegal := hr.fmt_eq ▸ h.fmtLegal
      layEPositive := hr.layE_eq ▸ h.layEPositive
      presetLayout := by
        rw [hr.fmt_eq, hr.layE_eq, hr.layM_eq]
        exact h.presetLayout
      bitsFit := by
        rw [hr.total_eq]
        exact hr.bits_lt h.pendingBits
      pendingBits := fun hv => by
        rw [hr.srcv_eq] at hv
        exact (hr.bits_eq_of_pending hv).trans (h.pendingBits hv)
      consistent := .inl hr.consistentAt
      inFlight := by
        rw [hr.busy_eq, hr.edgesLeft_eq, hr.pLatPred_eq]
        exact h.inFlight }

/-- An error that is not decode-side leaves the results of the last re-decode (R182, R209). -/
theorem Inv.with_otherError {s : State} (h : Inv s) {code : Status}
    (hcode : code = .errFloat ∨ code = .errLayout ∨ code = .errCmd) : Inv { s with status := code } :=
  { fmtLegal := h.fmtLegal
    layEPositive := h.layEPositive
    presetLayout := h.presetLayout
    bitsFit := h.bitsFit
    pendingBits := h.pendingBits
    consistent := .inr ⟨hcode, h.consistent.exists_consistentAt⟩
    inFlight := h.inFlight }

/-- The invariant reads of the hidden state the count of edges alone. -/
theorem Inv.withHidden {s : State} (h : Inv s) {x : State}
    (hx : x.busy = true → 1 ≤ x.edgesLeft ∧ x.edgesLeft ≤ x.pLatPred) : Inv (s.withHidden x) :=
  { fmtLegal := h.fmtLegal
    layEPositive := h.layEPositive
    presetLayout := h.presetLayout
    bitsFit := h.bitsFit
    pendingBits := h.pendingBits
    consistent := h.consistent
    inFlight := hx }

/-! ### Commands -/

theorem setfmt_sourceInv {s : State} (h : Inv s) {tag : BitVec 4} (ht : tag.toNat ≤ 8) :
    SourceInv ((s.setFmt tag).usePreset tag) := by
  obtain rfl | ⟨e, m, hp, hE, -⟩ := preset_of_legal_tag tag ht
  · exact
      { fmtLegal := ht
        layEPositive := h.layEPositive
        presetLayout := fun e m hp => by cases hp
        pendingBits := h.pendingBits
        inFlight := h.inFlight }
  · rw [usePreset_of_some hp]
    exact
      { fmtLegal := ht
        layEPositive := hE
        presetLayout := fun e' m' hp' => by
          cases hp.symm.trans hp'
          exact ⟨rfl, rfl⟩
        pendingBits := h.pendingBits
        inFlight := h.inFlight }

theorem setlay_sourceInv {s : State} (h : Inv s) (hf : s.fmt = customTag) {le : BitVec 6} (hle : le ≠ 0#6)
    (lm : BitVec 6) : SourceInv { s with layE := le, layM := lm } :=
  { fmtLegal := h.fmtLegal
    layEPositive := hle
    presetLayout := fun e m hp => by
      have hnone : preset s.fmt = none := by
        rw [hf]
        rfl
      cases hnone.symm.trans hp
    pendingBits := h.pendingBits
    inFlight := h.inFlight }

/-- A new source: a pattern that is valid, or a failed parse, which holds pattern 0 (R128). -/
theorem SourceInv.with_source {s : State} (h : SourceInv s) {b : Word64} {valid : Bool} {base : ParseBase}
    (hb : valid = false → b = 0#64) : SourceInv { s with bits := b, srcv := valid, srcb := base } :=
  { fmtLegal := h.fmtLegal
    layEPositive := h.layEPositive
    presetLayout := h.presetLayout
    pendingBits := hb
    inFlight := h.inFlight }

theorem exec_inv {i : Instr} {s t : State} (h : Inv s) (e : exec i s = .next t) : Inv t := by
  have hnext {u : State} (hu : exec i s = .next u) : t = u := Host.Outcome.next.inj (e.symm.trans hu)
  cases i with
  | nop => exact hnext (nopChangesNothing s) ▸ h
  | setfmt tag =>
    rcases Nat.lt_or_ge 8 tag.toNat with ht | ht
    · exact hnext (exec_setfmt_of_reserved ht s) ▸ h.with_otherError (by decide)
    · exact hnext (exec_setfmt_of_legal ht s) ▸ redecode_inv (setfmt_sourceInv h ht)
  | setlay le lm =>
    by_cases hc : s.fmt ≠ customTag ∨ le = 0#6
    · exact hnext (exec_setlay_of_refused hc lm) ▸ h.with_otherError (by decide)
    · obtain ⟨hf, hle⟩ := not_or.1 hc
      exact hnext (exec_setlay_of_legal (not_not.1 hf) hle lm) ▸
        redecode_inv (setlay_sourceInv h (not_not.1 hf) hle lm)
  | decode b =>
    exact hnext (exec_decode b s) ▸ redecode_inv (h.sourceInv.with_source (base := s.srcb) nofun)
  | encode v =>
    rcases Nat.lt_or_ge 64 s.total with hw | hn
    · exact hnext (exec_encode_of_wide hw v) ▸ redecode_inv h.sourceInv
    · exact hnext (exec_encode_of_narrow hn v) ▸ redecode_inv (h.sourceInv.with_source (base := s.srcb) nofun)
  | decerr base =>
    exact hnext (exec_decerr base s) ▸ redecode_inv (h.sourceInv.with_source fun _ => rfl)
  | encerr => exact hnext (encerrWritesStatusAlone s) ▸ h.with_otherError (by decide)

theorem runCommand_inv {c : Command} {s t : State} (h : Inv s) (e : runCommand c s = .next t) : Inv t := by
  cases hd : decodeCommand c with
  | ok i => exact exec_inv h ((runCommand_of_ok hd s).symm.trans e)
  | error r =>
    have ht := Host.Outcome.next.inj ((runCommand_of_error hd s).symm.trans e)
    exact ht ▸ h.with_otherError (by decide)

/-! ### The reset state -/

/-- Settles O2: DEC_CORE by evaluation. -/
theorem resetResultsAreTheDecodeOfZero : Obligations.ResetResultsAreTheDecodeOfZero := by
  unfold Obligations.ResetResultsAreTheDecodeOfZero
  decide

/-- Settles O13: R52 gives the consistency, and the rest is by evaluation. -/
theorem resetStateIsConsistent : Obligations.ResetStateIsConsistent :=
  { fmtLegal := by decide
    layEPositive := by decide
    presetLayout := fun e m hp => by
      have hpreset : preset State.reset.fmt = some (8#6, 23#6) := rfl
      cases hpreset.symm.trans hp
      exact ⟨rfl, rfl⟩
    bitsFit := by decide
    pendingBits := by decide
    consistent := .inl (.inl ⟨by decide, rfl, rfl, resetResultsAreTheDecodeOfZero.1⟩)
    inFlight := by decide }

/-! ### Edges -/

/-- A commit edge leaves the unit ready, so its count is not read, and runs a command. -/
theorem commit_inv {s t : State} (h : Inv s) (e : commit s = .next t) : Inv t :=
  runCommand_inv (h.withHidden (x := { s with busy := false, edgesLeft := 0 }) nofun) e

theorem accept_inv {c : Command} {s t : State} (h : Inv s) (hb : s.busy = false) (e : accept c s = .next t) :
    Inv t := by
  obtain ⟨-, a⟩ | ⟨h0, a⟩ := accept_cases c s
  · have hready : Inv { s with cmdq := c } :=
      h.withHidden (x := { s with cmdq := c }) fun hbusy => by cases hb.symm.trans hbusy
    exact commit_inv hready (a.symm.trans e)
  · have ht := Host.Outcome.next.inj (a.symm.trans e)
    exact ht ▸ h.withHidden (x := { s with cmdq := c, busy := true, edgesLeft := s.pLatPred })
      fun _ => ⟨Nat.one_le_iff_ne_zero.2 h0, le_rfl⟩

theorem edge_inv {p : Pins} {s t : State} (h : Inv s) (e : edge p s = .next t) : Inv t := by
  have hnext {u : State} (hu : edge p s = .next u) : t = u := Host.Outcome.next.inj (e.symm.trans hu)
  rcases edge_cases p s with ⟨-, a⟩ | ⟨-, -, -, a⟩ | ⟨-, hb, hl, a⟩ | ⟨-, hb, -, a⟩ | ⟨-, -, -, a⟩
  · exact hnext a ▸ Inv.withHidden resetStateIsConsistent
      (x := { State.reset with pLatPred := s.pLatPred, pins := s.pins }) nofun
  · exact commit_inv h (a.symm.trans e)
  · obtain ⟨-, hle⟩ := h.inFlight hb
    exact hnext a ▸ h.withHidden (x := { s with edgesLeft := s.edgesLeft - 1 })
      fun _ => ⟨Nat.le_sub_one_of_lt hl, (Nat.sub_le _ 1).trans hle⟩
  · exact accept_inv h hb (a.symm.trans e)
  · exact hnext a ▸ h

/-- Settles O12: taking the pins is a change of the hidden state, and every edge keeps the invariant. -/
theorem stepKeepsTheStateConsistent : Obligations.StepKeepsTheStateConsistent := fun s _ h e =>
  edge_inv (h.withHidden (x := s.takePins) h.inFlight) e

end Sys2Proof.Machine
end

section
/-! What a command writes (60_exceptions.md R180, R181; 30_encoding.md R91; "written only by" of 10_state.md): the frame
of a re-decode of a state whose other registers a command set, and reserved arguments first, then the statements. -/

namespace Sys2Proof.Machine

/-! ### STATUS after a re-decode -/

theorem parseErrorStatus_ne_ok (base : ParseBase) : parseErrorStatus base ≠ .ok := by cases base <;> decide

/-- The errors that write STATUS alone are no decode-side error and not OK (R180). -/
theorem otherError_ne {code : Status} (h : code = .errFloat ∨ code = .errLayout ∨ code = .errCmd) :
    ¬ (code = .errWidth ∨ code = .errHex ∨ code = .errBin) ∧ code ≠ .ok := by
  obtain rfl | rfl | rfl := h <;> decide

/-- After a re-decode STATUS tells which of its cases it was (R123). -/
theorem ConsistentAt.results_of_status {st : Status} {s : State} (h : ConsistentAt st s) :
    ((st = .errWidth ∨ st = .errHex ∨ st = .errBin) → s.results = clearedResult) ∧
    (st = .ok → s.total ≤ 64 ∧ s.srcv = true ∧ s.results = decCore s.bits s.widthE s.widthM) := by
  obtain ⟨hn, hv, rfl, hresults⟩ | ⟨-, rfl, hresults⟩ | ⟨-, -, rfl, hresults⟩ := h
  · exact ⟨fun h => absurd h (by decide), fun _ => ⟨hn, hv, hresults⟩⟩
  · exact ⟨fun _ => hresults, fun h => absurd h (by decide)⟩
  · exact ⟨fun _ => hresults, fun h => absurd h (parseErrorStatus_ne_ok _)⟩

/-! ### Reserved arguments (R91) -/

/-- A command with a reserved argument is refused with STATUS alone (R104, R106). -/
theorem exec_of_reserved {i : Instr} (h : i.wellFormed = false) (s : State) :
    ∃ c, (c = .errCmd ∨ c = .errLayout) ∧ exec i s = .next { s with status := c } := by
  cases i with
  | setfmt tag =>
    have htag : 8 < tag.toNat := Nat.not_le.1 (of_decide_eq_false h)
    exact ⟨.errCmd, .inl rfl, exec_setfmt_of_reserved htag s⟩
  | setlay le lm =>
    have hle : le = 0#6 := not_not.1 (of_decide_eq_false h)
    exact ⟨.errLayout, .inr rfl, exec_setlay_of_refused (.inr hle) lm⟩
  | _ => cases h

/-- A command with no reserved argument ends in a re-decode or is ENCERR, but for NOP and SETLAY under a preset. -/
theorem exec_of_wellFormed {i : Instr} {s : State} (h : i.wellFormed = true) (hnop : i ≠ .nop)
    (hlay : s.fmt = customTag ∨ ∀ le lm, i ≠ .setlay le lm) :
    exec i s = .next { s with status := .errFloat } ∨ ∃ u, exec i s = .next (redecode u) := by
  cases i with
  | nop => exact absurd rfl hnop
  | setfmt tag => exact .inr ⟨_, exec_setfmt_of_legal (of_decide_eq_true h) s⟩
  | setlay le lm =>
    have hfmt : s.fmt = customTag := hlay.resolve_right fun hne => hne le lm rfl
    exact .inr ⟨_, exec_setlay_of_legal hfmt (of_decide_eq_true h) lm⟩
  | decode b => exact .inr ⟨_, exec_decode b s⟩
  | encode v =>
    rcases Nat.lt_or_ge 64 s.total with hw | hn
    · exact .inr ⟨_, exec_encode_of_wide hw v⟩
    · exact .inr ⟨_, exec_encode_of_narrow hn v⟩
  | decerr base => exact .inr ⟨_, exec_decerr base s⟩
  | encerr => exact .inl (encerrWritesStatusAlone s)

/-! ### Frames -/

theorem exec_withHidden_self {i : Instr} {s t : State} (e : exec i s = .next t) : t.withHidden s = t := by
  have h := exec_withHidden i s s t e
  exact Host.Outcome.next.inj (h.symm.trans e)

theorem usePreset_source (tag : BitVec 4) (s : State) :
    (s.usePreset tag).srcv = s.srcv ∧ (s.usePreset tag).srcb = s.srcb := by
  obtain ⟨e, m, -, h⟩ | ⟨-, h⟩ := usePreset_cases tag s
  · rw [h]
    exact ⟨rfl, rfl⟩
  · rw [h]
    exact ⟨rfl, rfl⟩

/-- SETFMT keeps the source (R104). -/
theorem exec_setfmt_frame {tag : BitVec 4} {s t : State} (e : exec (.setfmt tag) s = .next t) :
    t.srcv = s.srcv ∧ t.srcb = s.srcb := by
  rcases Nat.lt_or_ge 8 tag.toNat with h | h
  · cases e.symm.trans (exec_setfmt_of_reserved h s)
    exact ⟨rfl, rfl⟩
  · cases e.symm.trans (exec_setfmt_of_legal h s)
    have hr := redecode_spec ((s.setFmt tag).usePreset tag)
    obtain ⟨hsrcv, hsrcb⟩ := usePreset_source tag (s.setFmt tag)
    exact ⟨hr.srcv_eq.trans hsrcv, hr.srcb_eq.trans hsrcb⟩

/-- SETLAY keeps the format and the source (R106). -/
theorem exec_setlay_frame {le lm : BitVec 6} {s t : State} (e : exec (.setlay le lm) s = .next t) :
    t.fmt = s.fmt ∧ t.srcv = s.srcv ∧ t.srcb = s.srcb := by
  by_cases h : s.fmt ≠ customTag ∨ le = 0#6
  · cases e.symm.trans (exec_setlay_of_refused h lm)
    exact ⟨rfl, rfl, rfl⟩
  · obtain ⟨hf, hle⟩ := not_or.1 h
    cases e.symm.trans (exec_setlay_of_legal (not_not.1 hf) hle lm)
    have hr := redecode_spec { s with layE := le, layM := lm }
    exact ⟨hr.fmt_eq, hr.srcv_eq, hr.srcb_eq⟩

/-- ENCODE keeps the format, the layout and the base (R160). -/
theorem exec_encode_frame {v : Word64} {s t : State} (e : exec (.encode v) s = .next t) :
    t.fmt = s.fmt ∧ (t.layE = s.layE ∧ t.layM = s.layM) ∧ t.srcb = s.srcb := by
  rcases Nat.lt_or_ge 64 s.total with hw | hn
  · cases e.symm.trans (exec_encode_of_wide hw v)
    have hr := redecode_spec s
    exact ⟨hr.fmt_eq, ⟨hr.layE_eq, hr.layM_eq⟩, hr.srcb_eq⟩
  · cases e.symm.trans (exec_encode_of_narrow hn v)
    have hr := redecode_spec { s with bits := encCore v s.widthE s.widthM, srcv := true }
    exact ⟨hr.fmt_eq, ⟨hr.layE_eq, hr.layM_eq⟩, hr.srcb_eq⟩

/-! ### The statements -/

/-- Settles O28: a command other than NOP leaves another error or ends in a re-decode, whose results agree with its
status. -/
theorem statusTellsTheResults : Obligations.StatusTellsTheResults := by
  intro i s t hi e
  have hnext {u : State} (hu : exec i s = .next u) : t = u := Host.Outcome.next.inj (e.symm.trans hu)
  obtain ⟨hnop, -⟩ | ⟨code, hcode, h⟩ | ⟨u, h⟩ := exec_cases i s
  · exact absurd hnop hi
  · rw [hnext h]
    obtain ⟨hside, hok⟩ := otherError_ne hcode
    exact ⟨fun h => absurd h hside, fun h => absurd h hok⟩
  · rw [hnext h]
    exact (redecode_spec u).consistentAt.results_of_status

/-- Settles O29: the hidden state by `exec_withHidden`, and of the registers what each command leaves unchanged. -/
theorem onlyTheNamedCommandsWriteARegister : Obligations.OnlyTheNamedCommandsWriteARegister := by
  intro i s t e
  have hidden := exec_withHidden_self e
  have hqueue : t.busy = s.busy ∧ t.cmdq = s.cmdq ∧ t.edgesLeft = s.edgesLeft ∧ t.pLatPred = s.pLatPred ∧
      t.pins = s.pins := by
    rw [← hidden]
    exact ⟨rfl, rfl, rfl, rfl, rfl⟩
  cases i with
  | nop =>
    cases e.symm.trans (nopChangesNothing s)
    exact ⟨.inl rfl, .inl ⟨rfl, rfl⟩, .inl rfl, .inl rfl, .inl ⟨rfl, rfl⟩, .inl rfl, hqueue⟩
  | setfmt tag =>
    obtain ⟨hsrcv, hsrcb⟩ := exec_setfmt_frame e
    exact ⟨.inr ⟨tag, rfl⟩, .inr (.inl ⟨tag, rfl⟩), .inl hsrcv, .inl hsrcb, .inr ⟨nofun, nofun⟩, .inr nofun, hqueue⟩
  | setlay le lm =>
    obtain ⟨hfmt, hsrcv, hsrcb⟩ := exec_setlay_frame e
    exact ⟨.inl hfmt, .inr (.inr ⟨le, lm, rfl⟩), .inl hsrcv, .inl hsrcb, .inr ⟨nofun, nofun⟩, .inr nofun, hqueue⟩
  | decode b =>
    cases e.symm.trans (exec_decode b s)
    have hr := redecode_spec { s with bits := b &&& lowmask s.total, srcv := true }
    exact ⟨.inl hr.fmt_eq, .inl ⟨hr.layE_eq, hr.layM_eq⟩, .inr (.inl ⟨b, rfl⟩), .inl hr.srcb_eq,
      .inr ⟨nofun, nofun⟩, .inr nofun, hqueue⟩
  | encode v =>
    obtain ⟨hfmt, hlay, hsrcb⟩ := exec_encode_frame e
    exact ⟨.inl hfmt, .inl hlay, .inr (.inr (.inl ⟨v, rfl⟩)), .inl hsrcb, .inr ⟨nofun, nofun⟩, .inr nofun, hqueue⟩
  | decerr base =>
    cases e.symm.trans (exec_decerr base s)
    have hr := redecode_spec { s with srcb := base, bits := 0#64, srcv := false }
    exact ⟨.inl hr.fmt_eq, .inl ⟨hr.layE_eq, hr.layM_eq⟩, .inr (.inr (.inr ⟨base, rfl⟩)), .inr ⟨base, rfl⟩,
      .inr ⟨nofun, nofun⟩, .inr nofun, hqueue⟩
  | encerr =>
    cases e.symm.trans (encerrWritesStatusAlone s)
    exact ⟨.inl rfl, .inl ⟨rfl, rfl⟩, .inl rfl, .inl rfl, .inl ⟨rfl, rfl⟩, .inr nofun, hqueue⟩

/-- Settles O30: a reserved argument is refused, and a re-decode leaves neither of the two codes. -/
theorem onlyReservedArgumentsAreRefused : Obligations.OnlyReservedArgumentsAreRefused := by
  refine ⟨fun i s h => exec_of_reserved h s, fun i s t h hnop hlay e => ?_⟩
  obtain ha | ⟨u, ha⟩ := exec_of_wellFormed h hnop hlay
  · cases e.symm.trans ha
    exact ⟨nofun, nofun⟩
  · cases e.symm.trans ha
    have hother := redecode_status_ne_other u
    exact ⟨fun hc => hother (.inr (.inr hc)), fun hc => hother (.inr (.inl hc))⟩

end Sys2Proof.Machine
end

section
/-! The values of a layout as a grid (10_state.md R34, R35, R39, R42): the patterns of one sign, numbered by exponent
field and mantissa field together, have as values whole multiples of the least spacing, and these rise strictly. The
statements about decoded patterns that need no rounding come after it. -/

namespace Sys2Proof.Machine

/-! ### The grid -/

/-- The value of the N-th magnitude of a layout with M mantissa bits, N holding the exponent field above the mantissa
field, in units of the least spacing. There is no largest N here, so the values past the largest finite one go on. -/
def gridUnits (M N : Nat) : Nat := if N / 2 ^ M = 0 then N % 2 ^ M else (2 ^ M + N % 2 ^ M) * 2 ^ (N / 2 ^ M - 1)

theorem gridUnits_of_lt {M N : Nat} (h : N < 2 ^ M) : gridUnits M N = N := by
  rw [gridUnits, if_pos (Nat.div_eq_of_lt h), Nat.mod_eq_of_lt h]

/-- The binade with spacing 2^q. -/
theorem gridUnits_of_binade {M n : Nat} (q : Nat) (hlow : 2 ^ M ≤ n) (hhigh : n < 2 ^ (M + 1)) :
    gridUnits M (q * 2 ^ M + n) = n * 2 ^ q := by
  have hm : n - 2 ^ M < 2 ^ M := by
    rw [pow_succ] at hhigh
    omega
  have hN : q * 2 ^ M + n = (q + 1) * 2 ^ M + (n - 2 ^ M) := by
    rw [Nat.succ_mul]
    omega
  have hdiv : (q * 2 ^ M + n) / 2 ^ M = q + 1 := by
    rw [hN, Nat.mul_comm, Nat.mul_add_div (Nat.two_pow_pos M), Nat.div_eq_of_lt hm, Nat.add_zero]
  have hmod : (q * 2 ^ M + n) % 2 ^ M = n - 2 ^ M := by rw [hN, Nat.mul_add_mod', Nat.mod_eq_of_lt hm]
  rw [gridUnits, hdiv, hmod, if_neg (Nat.succ_ne_zero q), Nat.add_sub_cancel, Nat.add_sub_cancel' hlow]

/-- The start of a binade is also the end of the one below it. -/
theorem gridUnits_mul_two_pow (M : Nat) (q : Nat) : gridUnits M ((q + 1) * 2 ^ M) = 2 ^ M * 2 ^ q := by
  rw [Nat.succ_mul]
  exact gridUnits_of_binade q le_rfl (Nat.pow_lt_pow_right one_lt_two M.lt_succ_self)

/-- A multiple n of the spacing 2^q, up to the end of its binade, is the value of q · 2^M + n. -/
theorem gridUnits_mul_add {M q n : Nat} (hlow : q = 0 ∨ 2 ^ M ≤ n) (hhigh : n ≤ 2 ^ (M + 1)) :
    gridUnits M (q * 2 ^ M + n) = n * 2 ^ q := by
  rcases Nat.lt_or_ge n (2 ^ M) with hn | hn
  · obtain rfl : q = 0 := hlow.resolve_right (Nat.not_le.2 hn)
    rw [Nat.zero_mul, Nat.zero_add, gridUnits_of_lt hn, pow_zero, Nat.mul_one]
  · obtain hlt | rfl := Nat.lt_or_eq_of_le hhigh
    · exact gridUnits_of_binade q hn hlt
    · have hN : q * 2 ^ M + 2 ^ (M + 1) = (q + 1 + 1) * 2 ^ M := by ring
      rw [hN, gridUnits_mul_two_pow]
      ring

/-- Every magnitude lies in a binade below its end. -/
theorem exists_binade (M N : Nat) : ∃ q n, N = q * 2 ^ M + n ∧ (q = 0 ∨ 2 ^ M ≤ n) ∧ n < 2 ^ (M + 1) := by
  have hmod := Nat.mod_lt N (Nat.two_pow_pos M)
  rcases Nat.lt_or_ge N (2 ^ M) with hN | hN
  · exact ⟨0, N, by rw [Nat.zero_mul, Nat.zero_add], .inl rfl,
      hN.trans (Nat.pow_lt_pow_right one_lt_two M.lt_succ_self)⟩
  · have hdiv : 1 ≤ N / 2 ^ M := (Nat.one_le_div_iff (Nat.two_pow_pos M)).2 hN
    refine ⟨N / 2 ^ M - 1, 2 ^ M + N % 2 ^ M, ?_, .inr (Nat.le_add_right _ _), ?_⟩
    · have hsucc : N / 2 ^ M = N / 2 ^ M - 1 + 1 := (Nat.sub_add_cancel hdiv).symm
      rw [← Nat.add_assoc, ← Nat.succ_mul, Nat.succ_eq_add_one, ← hsucc, Nat.div_add_mod']
    · rw [pow_succ]
      omega

theorem gridUnits_strictMono (M : Nat) : StrictMono (gridUnits M) := by
  refine strictMono_nat_of_lt_succ fun N => ?_
  obtain ⟨q, n, rfl, hlow, hhigh⟩ := exists_binade M N
  rw [Nat.add_assoc, gridUnits_mul_add hlow hhigh.le, gridUnits_mul_add (hlow.imp_right Nat.le_succ_of_le) hhigh]
  exact Nat.mul_lt_mul_of_pos_right n.lt_succ_self (Nat.two_pow_pos q)

/-- The value of the N-th magnitude, the least spacing being 2^e. -/
def gridValue (M : Nat) (e : Int) (N : Nat) : ℚ := scaled (gridUnits M N) e

theorem gridValue_strictMono (M : Nat) (e : Int) : StrictMono (gridValue M e) := fun _ _ h =>
  scaled_lt_scaled (gridUnits_strictMono M h) e

theorem gridValue_nonneg (M : Nat) (e : Int) (N : Nat) : 0 ≤ gridValue M e N := scaled_nonneg _ _

theorem scaled_one (t : Int) : scaled 1 t = (2 : ℚ) ^ t := by rw [scaled, Nat.cast_one, one_mul]

theorem scaled_mul_two_pow (n q : Nat) (e : Int) : scaled (n * 2 ^ q) e = scaled n (e + q) := by
  rw [scaled, scaled, zpow_add₀ two_ne_zero, zpow_natCast]
  push_cast
  ring

theorem gridValue_mul_add {M q n : Nat} (hlow : q = 0 ∨ 2 ^ M ≤ n) (hhigh : n ≤ 2 ^ (M + 1)) (e : Int) :
    gridValue M e (q * 2 ^ M + n) = scaled n (e + q) := by
  rw [gridValue, gridUnits_mul_add hlow hhigh, scaled_mul_two_pow]

theorem gridValue_zero (M : Nat) (e : Int) : gridValue M e 0 = 0 := by
  rw [gridValue, gridUnits_of_lt (Nat.two_pow_pos M), scaled, Nat.cast_zero, zero_mul]

/-- A number of at most M + 1 bits, scaled up, is a value of the grid. -/
theorem exists_gridUnits_eq {M n : Nat} (h : n < 2 ^ (M + 1)) (j : Nat) : ∃ N, gridUnits M N = n * 2 ^ j := by
  induction j generalizing n with
  | zero => exact ⟨0 * 2 ^ M + n, gridUnits_mul_add (.inl rfl) h.le⟩
  | succ j ih =>
    rcases Nat.lt_or_ge n (2 ^ M) with hn | hn
    · obtain ⟨N, hN⟩ := ih (n := 2 * n) (by rw [pow_succ']; omega)
      exact ⟨N, by rw [hN]; ring⟩
    · exact ⟨(j + 1) * 2 ^ M + n, gridUnits_mul_add (.inr hn) h.le⟩

theorem exists_gridValue_eq {M n : Nat} (h : n < 2 ^ (M + 1)) {e t : Int} (ht : e ≤ t) :
    ∃ N, gridValue M e N = scaled n t := by
  obtain ⟨j, hj⟩ := Int.le.dest ht
  obtain ⟨N, hN⟩ := exists_gridUnits_eq h j
  exact ⟨N, by rw [gridValue, hN, scaled_mul_two_pow, hj]⟩

/-! ### The patterns on the grid -/

/-- The number of a pattern's magnitude on the grid of its layout. -/
def magnitude (b : Word64) (E M : Nat) : Nat := expField b E M * 2 ^ M + mantField b M

/-- The exponent of the least spacing of a layout. -/
def leastExp (E M : Nat) : Int := minExp E - M

theorem magnitude_div (b : Word64) (E M : Nat) : magnitude b E M / 2 ^ M = expField b E M := by
  rw [magnitude, Nat.mul_comm, Nat.mul_add_div (Nat.two_pow_pos M), Nat.div_eq_of_lt (mantField_lt b M), Nat.add_zero]

theorem magnitude_mod (b : Word64) (E M : Nat) : magnitude b E M % 2 ^ M = mantField b M := by
  rw [magnitude, Nat.mul_add_mod', Nat.mod_eq_of_lt (mantField_lt b M)]

/-- SIG · 2^EXP2 of a pattern is the grid value of its magnitude (R121). -/
theorem scaled_number_eq_gridValue (b : Word64) (E M : Nat) :
    scaled (numberSig b E M) (numberExp2 b E M) = gridValue M (leastExp E M) (magnitude b E M) := by
  rw [gridValue, gridUnits, magnitude_div, magnitude_mod, numberSig, numberExp2, leastExp, minExp]
  split_ifs with h
  · rfl
  · rw [scaled_mul_two_pow]
    congr 1
    have hpred : ((expField b E M - 1 : Nat) : Int) = (expField b E M : Int) - 1 := by omega
    rw [hpred]
    ring

theorem magnitude_lt_iff (b : Word64) (E M : Nat) :
    magnitude b E M < emask E * 2 ^ M ↔ expField b E M ≠ emask E := by
  have hlt := expField_lt b E M
  have hle : expField b E M ≤ emask E := Nat.le_sub_one_of_lt hlt
  rw [← Nat.div_lt_iff_lt_mul (Nat.two_pow_pos M), magnitude_div]
  omega

theorem magnitude_assemblePattern {E M ef n : Nat} (hl : LegalLayout E M) (hef : ef < 2 ^ E) (hn : n < 2 ^ M)
    (s : Bool) : magnitude (assemblePattern s ef n E M) E M = ef * 2 ^ M + n := by
  rw [magnitude, expField_assemblePattern hl hef hn, mantField_assemblePattern hl hef hn]

/-- The magnitude past the largest finite one is that of the infinities, and would have the value 2^(max_exp + 1). -/
theorem gridValue_emask {E : Nat} (hE : 1 ≤ E) (M : Nat) :
    gridValue M (leastExp E M) (emask E * 2 ^ M) = (2 : ℚ) ^ (maxExp E + 1) := by
  have hpos := emask_pos hE
  have hcast : ((emask E - 1 : Nat) : Int) = 2 ^ E - 2 := by
    have htwo : 1 ≤ 2 ^ E := Nat.one_le_two_pow
    rw [emask] at hpos ⊢
    push_cast [Nat.cast_sub htwo, Nat.cast_sub (Nat.succ_le_of_lt hpos)]
    ring
  have hsplit : emask E * 2 ^ M = (emask E - 1) * 2 ^ M + 2 ^ M := by
    rw [← Nat.succ_mul, Nat.succ_eq_add_one, Nat.sub_add_cancel hpos]
  rw [hsplit, gridValue_mul_add (.inr le_rfl) (Nat.pow_le_pow_right two_pos M.le_succ), scaled_two_pow, hcast, leastExp,
    minExp, maxExp]
  congr 1
  ring

/-! ### Ranges of SIG and EXP2 -/

theorem two_pow_add_le (a M : Nat) : 2 ^ a + M ≤ 2 ^ (a + M) := by
  have hM : M < 2 ^ M := Nat.lt_two_pow_self
  have ha : 1 ≤ 2 ^ a := Nat.one_le_two_pow
  rw [pow_add]
  nlinarith

/-- EXP2 is least with exponent field 0, and largest with E = 63 (R35). -/
theorem numberExp2_range {b : Word64} {E M : Nat} (hl : LegalLayout E M) (he : expField b E M ≠ emask E) :
    -2 ^ 62 + 2 ≤ numberExp2 b E M ∧ numberExp2 b E M ≤ 2 ^ 62 - 1 := by
  have hE := hl.1
  have hEM := hl.total_le
  have hef : expField b E M + 2 ≤ 2 ^ E := by
    have hlt := expField_lt b E M
    rw [emask] at he
    omega
  have hsplit : 2 ^ E = 2 * 2 ^ (E - 1) := by rw [← pow_succ', Nat.sub_add_cancel hE]
  have hone : 1 ≤ 2 ^ (E - 1) := Nat.one_le_two_pow
  have hbound : 2 ^ (E - 1) + M ≤ 2 ^ 62 :=
    (two_pow_add_le _ _).trans (Nat.pow_le_pow_right two_pos (by omega))
  rw [numberExp2, bias]
  split_ifs <;> omega

/-! ### The statements -/

/-- Settles O33: one branch of DEC_CORE for each clause; with M = 0 the mantissa field is 0. -/
theorem allOnesExponentIsInfinityOrNaN : Obligations.AllOnesExponentIsInfinityOrNaN := by
  intro b E M _
  rw [← signField_eq]
  refine ⟨decCore_sign b E M, fun he hm => ?_, fun he hm => ?_, (decCore_cls_eq_number_iff b E M).2, ?_⟩
  · rw [decCore_of_inf he hm]
    exact ⟨rfl, rfl, rfl, rfl⟩
  · rw [decCore_of_nan he hm]
    exact ⟨rfl, rfl, rfl, rfl⟩
  · rintro rfl
    have hm : mantField b 0 = 0 := Nat.mod_one _
    by_cases he : expField b E 0 = emask E
    · rw [decCore_of_inf he hm]
      nofun
    · rw [decCore_of_number he]
      nofun

/-- Settles O34: 2^(e - M) is 2^e / 2^M, in both forms of SIG. -/
theorem decodedNumberHasTheValueOfItsFields : Obligations.DecodedNumberHasTheValueOfItsFields := by
  intro b E M hl hcls
  have he := (decCore_cls_eq_number_iff b E M).1 hcls
  have hpow : (2 : ℚ) ^ M ≠ 0 := by positivity
  rw [decCore_exactValue hl he, signField_eq, numberSig, numberExp2, scaled, zpow_sub₀ two_ne_zero, zpow_natCast]
  congr 1
  split_ifs with h0
  · ring
  · push_cast
    field_simp

/-- Settles O35: the fields' widths bound SIG and EXP2, and both are 0 for an infinity or a NaN. -/
theorem sigAndExp2StayInRange : Obligations.SigAndExp2StayInRange := by
  intro b E M hl
  have hzero : (0#64).toNat < 2 ^ 63 ∧ -2 ^ 62 + 2 ≤ (0#64).toInt ∧ (0#64).toInt ≤ 2 ^ 62 - 1 := by decide
  rcases decCore_fields_cases b E M with ⟨he, hm⟩ | ⟨he, hm⟩ | he
  · rw [decCore_of_inf he hm]
    exact hzero
  · rw [decCore_of_nan he hm]
    exact hzero
  · rw [decCore_sig_toNat hl he, decCore_exp2_toInt hl he]
    have hM : M + 1 ≤ 63 := by
      have hE := hl.1
      have hEM := hl.total_le
      omega
    exact ⟨(numberSig_lt b E M).trans_le (Nat.pow_le_pow_right two_pos hM), numberExp2_range hl he⟩

/-- The exponent field of one bit is 0 exactly when its bit is. -/
theorem expField_one_eq_zero_iff (b : Word64) (M : Nat) : expField b 1 M = 0 ↔ b.getLsbD M = false := by
  rw [expField, pow_one, ← BitVec.testBit_toNat, Nat.testBit_eq_decide_div_mod_eq, decide_eq_false_iff_not]
  omega

/-- Settles O38: an exponent field of one bit is 0 or all ones. -/
theorem oneExponentBitHasOnlySubnormals : Obligations.OneExponentBitHasOnlySubnormals := by
  intro b M hl
  have hmask : emask 1 = 1 := rfl
  have hnumber : (decCore b 1 M).cls = .number ↔ expField b 1 M = 0 := by
    have hlt := expField_lt b 1 M
    rw [decCore_cls_eq_number_iff, hmask]
    omega
  refine ⟨rfl, hnumber.trans (expField_one_eq_zero_iff b M), fun hcls => ?_⟩
  have h0 := hnumber.1 hcls
  rw [decCore_exactValue hl ((decCore_cls_eq_number_iff b 1 M).1 hcls), signField_eq, numberSig, if_pos h0,
    numberExp2_of_expField_zero h0, scaled]
  norm_num

/-- Settles O41: by the lemmas on exact values. -/
theorem integerPrimitivesAreExact : Obligations.IntegerPrimitivesAreExact :=
  ⟨rhaz_eq_floor, fun m t hm => ⟨two_zpow_ilog2_le hm t, lt_two_zpow_ilog2_add_one m t⟩, lowmask_toNat⟩

end Sys2Proof.Machine
end

section
/-! Rounding to a grid (00_scope.md R16, 42_encode.md R165): a value rounded to a multiple of the spacing of its binade is
nearest among all values of the grid, with the binades below and above it, and passes a magnitude at the midpoint below
it. -/

namespace Sys2Proof.Machine

/-! ### Distances between multiples of one spacing -/

theorem abs_scaled_sub_scaled (n m : Nat) (s t : Int) :
    |scaled n s - scaled m t| = |(n : ℚ) - scaled m (t - s)| * (2 : ℚ) ^ s := by
  have hfactor : scaled n s - scaled m t = ((n : ℚ) - scaled m (t - s)) * (2 : ℚ) ^ s := by
    rw [sub_mul, scaled_mul_two_zpow, sub_add_cancel, scaled]
  rw [hfactor, abs_mul, abs_of_pos (zpow_pos (two_pos (α := ℚ)) s)]

/-- Two multiples of 2^s are at least 2^s apart, so one of them within half of x leaves the other no nearer than half. -/
theorem half_le_abs_scaled_sub {n k : Nat} {s : Int} {x : ℚ} (h : |scaled n s - x| ≤ (2 : ℚ) ^ s / 2) (hne : k ≠ n) :
    (2 : ℚ) ^ s / 2 ≤ |scaled k s - x| := by
  have hone : (1 : ℚ) ≤ |(k : ℚ) - n| := by
    have hint : (1 : ℤ) ≤ |(k : ℤ) - n| := Int.one_le_abs (sub_ne_zero.2 (by exact_mod_cast hne))
    exact_mod_cast hint
  have hgap : (2 : ℚ) ^ s ≤ |scaled k s - scaled n s| := by
    have hpow : (0 : ℚ) < (2 : ℚ) ^ s := by positivity
    rw [scaled, scaled, ← sub_mul, abs_mul, abs_of_pos hpow]
    exact le_mul_of_one_le_left hpow.le hone
  have htri := abs_sub_le (scaled k s) x (scaled n s)
  rw [abs_sub_comm x] at htri
  linarith

/-! ### A value rounded to the spacing of its binade -/

/-- `n` is x rounded to a whole multiple of 2^(e + q), the spacing of the binade of x on the grid. -/
structure BinadeRounding (M : Nat) (e : Int) (x : ℚ) (q n : Nat) : Prop where
  within : |scaled n (e + q) - x| ≤ (2 : ℚ) ^ (e + q) / 2
  low : q = 0 ∨ scaled (2 ^ M) (e + q) ≤ x
  high : x < scaled (2 ^ (M + 1)) (e + q)

/-- N is a nearest magnitude to x, and `onTie` holds where another one is as near. -/
structure NearestOnGrid (M : Nat) (e : Int) (x : ℚ) (N : Nat) (onTie : Prop) : Prop where
  le : ∀ K, |gridValue M e N - x| ≤ |gridValue M e K - x|
  tie : ∀ K, K ≠ N → |gridValue M e N - x| = |gridValue M e K - x| → onTie

theorem scaled_succ (n : Nat) (t : Int) : scaled (n + 1) t = scaled n t + (2 : ℚ) ^ t := by
  rw [scaled, scaled, Nat.cast_succ]
  ring

section
variable {M q n : Nat} {e : Int} {x : ℚ} (h : BinadeRounding M e x q n)
include h

theorem BinadeRounding.n_low : q = 0 ∨ 2 ^ M ≤ n := by
  refine h.low.imp_right fun hlow => ?_
  by_contra hlt
  have hle := scaled_le_scaled (Nat.succ_le_of_lt (Nat.not_le.1 hlt)) (e + q)
  have hpow : (0 : ℚ) < (2 : ℚ) ^ (e + q) := by positivity
  have hwithin := (abs_le.1 h.within).1
  rw [Nat.succ_eq_add_one, scaled_succ] at hle
  linarith

theorem BinadeRounding.n_high : n ≤ 2 ^ (M + 1) := by
  by_contra hlt
  have hle := scaled_le_scaled (Nat.succ_le_of_lt (Nat.not_le.1 hlt)) (e + q)
  have hpow : (0 : ℚ) < (2 : ℚ) ^ (e + q) := by positivity
  have hwithin := (abs_le.1 h.within).2
  have hhigh := h.high
  rw [Nat.succ_eq_add_one, scaled_succ] at hle
  linarith

theorem BinadeRounding.gridValue_eq : gridValue M e (q * 2 ^ M + n) = scaled n (e + q) :=
  gridValue_mul_add h.n_low h.n_high e

/-- Every other value of the grid is at least half a spacing away: a value from the binade of x on is another multiple
of the spacing, and the values of the binades below end half a spacing below it. -/
theorem BinadeRounding.half_le_of_ne {K : Nat} (hne : K ≠ q * 2 ^ M + n) :
    (2 : ℚ) ^ (e + q) / 2 ≤ |gridValue M e K - x| := by
  have hvalue : gridValue M e K ≠ scaled n (e + q) := by
    rw [← h.gridValue_eq]
    exact (gridValue_strictMono M e).injective.ne hne
  obtain ⟨p, k, rfl, hlow, hhigh⟩ := exists_binade M K
  rw [gridValue_mul_add hlow hhigh.le] at hvalue ⊢
  rcases Nat.lt_or_ge p q with hp | hp
  · -- the binade of K ends below the binade of x
    obtain hq | hx := h.low
    · omega
    · have hk : k * 2 ^ p + 2 ^ (q - 1) ≤ 2 ^ M * 2 ^ q := by
        calc k * 2 ^ p + 2 ^ (q - 1) ≤ k * 2 ^ (q - 1) + 2 ^ (q - 1) := by gcongr <;> omega
          _ = (k + 1) * 2 ^ (q - 1) := by ring
          _ ≤ 2 ^ (M + 1) * 2 ^ (q - 1) := Nat.mul_le_mul_right _ hhigh
          _ = 2 ^ M * 2 ^ (q - 1 + 1) := by ring
          _ = 2 ^ M * 2 ^ q := by rw [Nat.sub_add_cancel (by omega)]
      have hle := scaled_le_scaled hk e
      have hhalf : scaled (2 ^ (q - 1)) e = (2 : ℚ) ^ (e + q) / 2 := by
        rw [scaled_two_pow, show e + q = ((q - 1 : Nat) : Int) + e + 1 by omega, zpow_add_one₀ two_ne_zero]
        ring
      have hadd : scaled (k * 2 ^ p + 2 ^ (q - 1)) e = scaled (k * 2 ^ p) e + scaled (2 ^ (q - 1)) e := by
        rw [scaled, scaled, scaled, Nat.cast_add, add_mul]
      rw [hadd, hhalf, scaled_mul_two_pow, scaled_mul_two_pow] at hle
      rw [abs_sub_comm]
      exact (by linarith : _ ≤ x - scaled k (e + p)).trans (le_abs_self _)
  · -- K is a multiple of the spacing of x
    have hmul : scaled k (e + p) = scaled (k * 2 ^ (p - q)) (e + q) := by
      rw [scaled_mul_two_pow]
      congr 1
      omega
    rw [hmul] at hvalue ⊢
    exact half_le_abs_scaled_sub h.within fun heq => hvalue (by rw [heq])

/-- A value rounded to the spacing of its binade is nearest on the whole grid, a tie being exactly half a spacing. -/
theorem BinadeRounding.nearestOnGrid {onTie : Prop} (htie : |scaled n (e + q) - x| = (2 : ℚ) ^ (e + q) / 2 → onTie) :
    NearestOnGrid M e x (q * 2 ^ M + n) onTie where
  le K := by
    rcases eq_or_ne K (q * 2 ^ M + n) with rfl | hne
    · exact le_rfl
    · rw [h.gridValue_eq]
      exact h.within.trans (h.half_le_of_ne hne)
  tie K hne heq := by
    rw [h.gridValue_eq] at heq
    exact htie (le_antisymm h.within (heq ▸ h.half_le_of_ne hne))

end

/-! ### Where the nearest magnitude passes K -/

/-- Halfway between the magnitudes K and K + 1. -/
def gridMidpoint (M : Nat) (e : Int) (K : Nat) : ℚ := (gridValue M e K + gridValue M e (K + 1)) / 2

section
variable {M N : Nat} {e : Int} {x : ℚ} {onTie : Prop} (h : NearestOnGrid M e x N onTie)
include h

theorem NearestOnGrid.eq_of_gridValue_eq {K : Nat} (hK : gridValue M e K = x) : N = K := by
  have hle := h.le K
  rw [hK, sub_self, abs_zero] at hle
  exact (gridValue_strictMono M e).injective ((sub_eq_zero.1 (abs_nonpos_iff.1 hle)).trans hK.symm)

theorem NearestOnGrid.le_of_le {K : Nat} (hx : x ≤ gridValue M e K) : N ≤ K := by
  by_contra hlt
  have hlt' := gridValue_strictMono M e (Nat.not_le.1 hlt)
  have hle := h.le K
  rw [abs_of_nonneg (by linarith), abs_of_nonneg (by linarith)] at hle
  linarith

theorem NearestOnGrid.le_of_lt_midpoint {K : Nat} (hx : x < gridMidpoint M e K) : N ≤ K := by
  by_contra hlt
  have hmono := (gridValue_strictMono M e).monotone (Nat.succ_le_of_lt (Nat.not_le.1 hlt))
  have hstep := gridValue_strictMono M e (Nat.lt_succ_self K)
  have hle := h.le K
  rw [gridMidpoint] at hx
  rw [Nat.succ_eq_add_one] at hmono hstep
  rw [abs_of_nonneg (by linarith)] at hle
  rcases abs_cases (gridValue M e K - x) with ⟨habs, -⟩ | ⟨habs, -⟩ <;> linarith

/-- From the midpoint on K is no longer the nearest, but for a tie at the midpoint itself. -/
theorem NearestOnGrid.lt_or_tie_of_midpoint_le {K : Nat} (hx : gridMidpoint M e K ≤ x) :
    K < N ∨ (N = K ∧ |gridValue M e N - x| = |gridValue M e (K + 1) - x|) := by
  refine or_iff_not_imp_left.2 fun hlt => ?_
  have hmono := (gridValue_strictMono M e).monotone (Nat.not_lt.1 hlt)
  have hstep := gridValue_strictMono M e (Nat.lt_succ_self K)
  have hle := h.le (K + 1)
  rw [gridMidpoint] at hx
  rw [Nat.succ_eq_add_one] at hstep
  have hN : |gridValue M e N - x| = x - gridValue M e N := by
    rw [abs_sub_comm, abs_of_nonneg (by linarith)]
  have hnext : |gridValue M e (K + 1) - x| ≤ x - gridValue M e K := by
    rw [abs_le]
    constructor <;> linarith
  have hvalue : gridValue M e N = gridValue M e K := by linarith
  refine ⟨(gridValue_strictMono M e).injective hvalue, le_antisymm hle ?_⟩
  rw [hN, hvalue]
  exact hnext

end

end Sys2Proof.Machine
end

section
/-! round_f64 (00_scope.md R16): binary64 words as patterns of the layout (11, 52), the integer roundings to even, and
round_f64 as the nearest magnitude of that layout's grid first, then the statements. -/

namespace Sys2Proof.Machine

/-! ### Binary64 words as patterns of the layout (11, 52) -/

theorem legalLayout_binary64 : LegalLayout 11 52 := ⟨by decide, by decide⟩

theorem leastExp_binary64 : leastExp 11 52 = -1074 := by decide

theorem f64Exp_eq_numberExp2 (v : Word64) : f64Exp v = numberExp2 v 11 52 := by
  have hbias : (bias 11 : ℤ) = 1023 := by decide
  change (if expField v 11 52 = 0 then -1074 else (expField v 11 52 : ℤ) - 1075) = _
  rw [numberExp2, hbias]
  split_ifs <;> omega

theorem scaled_f64_eq_gridValue (v : Word64) :
    scaled (f64Sig v) (f64Exp v) = gridValue 52 (-1074) (magnitude v 11 52) := by
  rw [f64Exp_eq_numberExp2, ← leastExp_binary64, ← scaled_number_eq_gridValue]
  rfl

theorem f64Finite_iff (v : Word64) : F64Finite v ↔ magnitude v 11 52 < 2047 * 2 ^ 52 :=
  (magnitude_lt_iff v 11 52).symm

/-! ### Rounding to an even integer (R16) -/

/-- n is a nearest integer to x, and an even one where x lies halfway. -/
def NearestEven (n : Nat) (x : ℚ) : Prop := |(n : ℚ) - x| ≤ 1 / 2 ∧ (|(n : ℚ) - x| = 1 / 2 → n % 2 = 0)

theorem nearestEven_of_eq {n : Nat} {x : ℚ} (h : (n : ℚ) = x) : NearestEven n x := by
  rw [NearestEven, h, sub_self, abs_zero]
  norm_num

/-- The three cases of a remainder: below, at and above half of the divisor. -/
theorem roundHalfEven_cases (m k : Nat) :
    (2 * (m % 2 ^ k) < 2 ^ k ∧ roundHalfEven m k = m / 2 ^ k) ∨
    (2 * (m % 2 ^ k) = 2 ^ k ∧ roundHalfEven m k = m / 2 ^ k + m / 2 ^ k % 2) ∨
    (2 ^ k < 2 * (m % 2 ^ k) ∧ roundHalfEven m k = m / 2 ^ k + 1) := by
  rw [roundHalfEven]
  split_ifs <;> omega

theorem roundHalfEven_nearestEven (m k : Nat) : NearestEven (roundHalfEven m k) ((m : ℚ) / 2 ^ k) := by
  have hd : (0 : ℚ) < 2 ^ k := by positivity
  have hr : ((m % 2 ^ k : Nat) : ℚ) < 2 ^ k := by exact_mod_cast Nat.mod_lt m (Nat.two_pow_pos k)
  have hx : (m : ℚ) / 2 ^ k = ((m / 2 ^ k : Nat) : ℚ) + ((m % 2 ^ k : Nat) : ℚ) / 2 ^ k := by
    rw [div_eq_iff hd.ne', add_mul, div_mul_cancel₀ _ hd.ne']
    exact_mod_cast (Nat.div_add_mod' m (2 ^ k)).symm
  have hy0 : 0 ≤ ((m % 2 ^ k : Nat) : ℚ) / 2 ^ k := by positivity
  have hy1 : ((m % 2 ^ k : Nat) : ℚ) / 2 ^ k < 1 := (div_lt_one hd).2 hr
  rw [NearestEven, hx]
  obtain ⟨h, e⟩ | ⟨h, e⟩ | ⟨h, e⟩ := roundHalfEven_cases m k
  · have hlt : ((m % 2 ^ k : Nat) : ℚ) / 2 ^ k < 1 / 2 := by
      rw [div_lt_div_iff₀ hd two_pos, one_mul, mul_comm]
      exact_mod_cast h
    rw [e, sub_add_cancel_left, abs_neg, abs_of_nonneg hy0]
    exact ⟨hlt.le, fun heq => absurd heq hlt.ne⟩
  · have heq : ((m % 2 ^ k : Nat) : ℚ) / 2 ^ k = 1 / 2 := by
      rw [div_eq_div_iff hd.ne' two_ne_zero, one_mul, mul_comm]
      exact_mod_cast h
    rw [e, heq, Nat.cast_add, add_sub_add_left_eq_sub]
    refine ⟨?_, fun _ => by omega⟩
    obtain h0 | h1 := Nat.mod_two_eq_zero_or_one (m / 2 ^ k)
    · norm_num [h0]
    · norm_num [h1]
  · have hgt : 1 / 2 < ((m % 2 ^ k : Nat) : ℚ) / 2 ^ k := by
      rw [div_lt_div_iff₀ two_pos hd, one_mul, mul_comm _ (2 : ℚ)]
      exact_mod_cast h
    rw [e, Nat.cast_succ, add_sub_add_left_eq_sub, abs_of_pos (by linarith)]
    exact ⟨by linarith, fun heq => by linarith⟩

theorem roundScaledEven_nearestEven (m : Nat) (t : Int) : NearestEven (roundScaledEven m t) (scaled m t) := by
  rw [roundScaledEven]
  split_ifs with ht
  · obtain ⟨k, rfl⟩ := Int.eq_ofNat_of_zero_le ht
    apply nearestEven_of_eq
    rw [scaled, zpow_natCast, Int.toNat_natCast]
    push_cast
    rfl
  · obtain ⟨k, rfl⟩ : ∃ k : Nat, t = -(k : Int) := ⟨(-t).toNat, by omega⟩
    rw [scaled, zpow_neg, zpow_natCast, ← div_eq_mul_inv, neg_neg, Int.toNat_natCast]
    exact roundHalfEven_nearestEven m k

/-! ### round_f64 as a nearest magnitude -/

theorem ilog2_lt_of_lt {m : Nat} (hm : 0 < m) {t k : Int} (h : scaled m t < (2 : ℚ) ^ k) : ilog2 m t < k :=
  (zpow_lt_zpow_iff_right₀ one_lt_two).1 ((two_zpow_ilog2_le hm t).trans_lt h)

/-- Below half of the least spacing the magnitude is 0. -/
theorem binadeRounding_zero {x : ℚ} (h0 : 0 ≤ x) (h : x < (2 : ℚ) ^ (-1075 : Int)) :
    BinadeRounding 52 (-1074) x 0 0 where
  within := by
    have hhalf : (2 : ℚ) ^ ((-1074 : Int) + (0 : Nat)) / 2 = (2 : ℚ) ^ (-1075 : Int) := by
      rw [Nat.cast_zero, add_zero, show (-1074 : ℤ) = -1075 + 1 by norm_num, zpow_add_one₀ two_ne_zero]
      ring
    rw [hhalf, scaled, Nat.cast_zero, zero_mul, zero_sub, abs_neg, abs_of_nonneg h0]
    exact h.le
  low := .inl rfl
  high := by
    rw [scaled_two_pow]
    exact h.trans_le (zpow_le_zpow_right₀ one_le_two (by norm_num))

/-- Below 2^1024 round_f64 rounds to the spacing of the binade, a half to the even multiple. -/
theorem roundF64Magnitude_binade {m : Nat} {t : Int} (hx : scaled m t < (2 : ℚ) ^ (1024 : Int)) :
    ∃ q n, roundF64Magnitude m t = q * 2 ^ 52 + n ∧ BinadeRounding 52 (-1074) (scaled m t) q n ∧
      (|scaled n (-1074 + q) - scaled m t| = (2 : ℚ) ^ (-1074 + q : Int) / 2 → n % 2 = 0) := by
  rcases Nat.eq_zero_or_pos m with rfl | hm
  · refine ⟨0, 0, if_pos rfl, binadeRounding_zero (scaled_nonneg _ _) ?_, fun _ => rfl⟩
    rw [scaled, Nat.cast_zero, zero_mul]
    positivity
  have hlog := ilog2_lt_of_lt hm hx
  rw [roundF64Magnitude, if_neg hm.ne', if_neg (not_le.2 hlog)]
  split_ifs with hsmall
  · refine ⟨0, 0, rfl, binadeRounding_zero (scaled_nonneg _ _) ?_, fun _ => rfl⟩
    exact (lt_two_zpow_ilog2_add_one m t).trans_le (zpow_le_zpow_right₀ one_le_two (by omega))
  · set s : Int := max (ilog2 m t - 52) (-1074) with hs
    have hq : -1074 + (((s + 1074).toNat : Nat) : Int) = s := by omega
    obtain ⟨hwithin, htie⟩ := roundScaledEven_nearestEven m (t - s)
    have hpow : (0 : ℚ) < (2 : ℚ) ^ s := by positivity
    refine ⟨(s + 1074).toNat, roundScaledEven m (t - s), rfl, ⟨?_, ?_, ?_⟩, ?_⟩
    · rw [hq, abs_scaled_sub_scaled]
      linarith [mul_le_mul_of_nonneg_right hwithin hpow.le]
    · refine or_iff_not_imp_left.2 fun hne => ?_
      rw [hq, scaled_two_pow]
      exact (zpow_le_zpow_right₀ one_le_two (by omega)).trans (two_zpow_ilog2_le hm t)
    · rw [hq, scaled_two_pow]
      exact (lt_two_zpow_ilog2_add_one m t).trans_le (zpow_le_zpow_right₀ one_le_two (by omega))
    · rw [hq, abs_scaled_sub_scaled]
      intro heq
      exact htie (mul_right_cancel₀ hpow.ne' (heq.trans (by ring)))

/-- Below 2^1024 round_f64 gives a nearest magnitude, on a tie an even one. -/
theorem roundF64Magnitude_nearestOnGrid {m : Nat} {t : Int} (hx : scaled m t < (2 : ℚ) ^ (1024 : Int)) :
    NearestOnGrid 52 (-1074) (scaled m t) (roundF64Magnitude m t) (roundF64Magnitude m t % 2 = 0) := by
  obtain ⟨q, n, hN, hround, htie⟩ := roundF64Magnitude_binade hx
  rw [hN]
  exact hround.nearestOnGrid fun h => by
    have heven := htie h
    omega

/-! ### The largest magnitudes of binary64 -/

theorem gridValue_binary64_inf : gridValue 52 (-1074) (2047 * 2 ^ 52) = (2 : ℚ) ^ (1024 : Int) := by
  have hmax : maxExp 11 + 1 = 1024 := by decide
  rw [← leastExp_binary64, ← hmax]
  exact gridValue_emask legalLayout_binary64.1 52

/-- Halfway between the largest finite binary64 magnitude and 2^1024. -/
theorem gridMidpoint_binary64 : gridMidpoint 52 (-1074) (2047 * 2 ^ 52 - 1) = (2 : ℚ) ^ 1024 - (2 : ℚ) ^ 970 := by
  have hlast : 2047 * 2 ^ 52 - 1 = 2045 * 2 ^ 52 + (2 ^ 53 - 1) := by norm_num
  have hnext : 2047 * 2 ^ 52 - 1 + 1 = 2045 * 2 ^ 52 + 2 ^ 53 := by norm_num
  rw [gridMidpoint, hnext, hlast, gridValue_mul_add (.inr (by norm_num)) (by norm_num),
    gridValue_mul_add (.inr (by norm_num)) (by norm_num), scaled_sub Nat.one_le_two_pow, scaled_one,
    scaled_two_pow, show (-1074 : ℤ) + ((2045 : ℕ) : ℤ) = ((971 : ℕ) : ℤ) by norm_num, ← Nat.cast_add, zpow_natCast,
    zpow_natCast, pow_succ (2 : ℚ) 970]
  generalize (2 : ℚ) ^ (53 + 971) = a
  generalize (2 : ℚ) ^ 970 = b
  ring

theorem roundF64Magnitude_of_large {m : Nat} {t : Int} (h : (2 : ℚ) ^ (1024 : Int) ≤ scaled m t) :
    roundF64Magnitude m t = 2047 * 2 ^ 52 := by
  have hm : m ≠ 0 := by
    rintro rfl
    have hpos : (0 : ℚ) < (2 : ℚ) ^ (1024 : Int) := by positivity
    rw [scaled, Nat.cast_zero, zero_mul] at h
    exact absurd h (not_le.2 hpos)
  have hlog : 1024 ≤ ilog2 m t :=
    Int.le_of_lt_add_one ((zpow_lt_zpow_iff_right₀ one_lt_two).1 (h.trans_lt (lt_two_zpow_ilog2_add_one m t)))
  rw [roundF64Magnitude, if_neg hm, if_pos hlog]
  rfl

theorem roundF64Magnitude_le (m : Nat) (t : Int) : roundF64Magnitude m t ≤ 2047 * 2 ^ 52 := by
  rcases lt_or_ge (scaled m t) ((2 : ℚ) ^ (1024 : Int)) with hx | hx
  · refine (roundF64Magnitude_nearestOnGrid hx).le_of_le ?_
    rw [gridValue_binary64_inf]
    exact hx.le
  · exact (roundF64Magnitude_of_large hx).le

/-- From 2^1024 - 2^970 on, the midpoint past the largest finite magnitude, the magnitude is that of the infinities: on
the tie the largest finite one is odd. -/
theorem roundF64Magnitude_eq_inf_of_le {m : Nat} {t : Int} (h : (2 : ℚ) ^ 1024 - (2 : ℚ) ^ 970 ≤ scaled m t) :
    roundF64Magnitude m t = 2047 * 2 ^ 52 := by
  rcases lt_or_ge (scaled m t) ((2 : ℚ) ^ (1024 : Int)) with hx | hx
  · have hnear := roundF64Magnitude_nearestOnGrid hx
    have hle := roundF64Magnitude_le m t
    rw [← gridMidpoint_binary64] at h
    obtain hlt | ⟨hN, htie⟩ := hnear.lt_or_tie_of_midpoint_le h
    · omega
    · have heven := hnear.tie _ (by omega) htie
      omega
  · exact roundF64Magnitude_of_large hx

theorem roundF64Magnitude_lt_inf_of_lt {m : Nat} {t : Int} (h : scaled m t < (2 : ℚ) ^ 1024 - (2 : ℚ) ^ 970) :
    roundF64Magnitude m t < 2047 * 2 ^ 52 ∧
      NearestOnGrid 52 (-1074) (scaled m t) (roundF64Magnitude m t) (roundF64Magnitude m t % 2 = 0) := by
  have hx : scaled m t < (2 : ℚ) ^ (1024 : Int) := by
    have hpos : (0 : ℚ) < (2 : ℚ) ^ 970 := by positivity
    exact h.trans (sub_lt_self _ hpos)
  have hnear := roundF64Magnitude_nearestOnGrid hx
  rw [← gridMidpoint_binary64] at h
  exact ⟨Nat.lt_of_le_sub_one (by norm_num) (hnear.le_of_lt_midpoint h), hnear⟩

/-! ### The word round_f64 gives -/

/-- round_f64 assembles its sign and magnitude as a pattern of the layout (11, 52). -/
theorem roundF64_eq_assemblePattern (s : Bool) (m : Nat) (t : Int) :
    roundF64 s m t =
      assemblePattern s (roundF64Magnitude m t / 2 ^ 52) (roundF64Magnitude m t % 2 ^ 52) 11 52 := by
  have hle := roundF64Magnitude_le m t
  rw [roundF64]
  generalize roundF64Magnitude m t = N at hle
  apply BitVec.eq_of_toNat_eq
  rw [assemblePattern_toNat legalLayout_binary64 (by omega) (Nat.mod_lt _ (Nat.two_pow_pos 52)), BitVec.toNat_or,
    BitVec.toNat_ofNat, Nat.mod_eq_of_lt (by omega)]
  cases s
  · have hz : f64PZero.toNat = 0 := rfl
    simp [hz]
    omega
  · have hz : f64NZero.toNat = 2 ^ 63 := rfl
    rw [if_pos rfl, if_pos rfl, hz]
    have hor := Nat.two_pow_add_eq_or_of_lt (show N < 2 ^ 63 by omega) 1
    rw [Nat.mul_one] at hor
    omega

theorem roundF64_of_magnitude_inf {s : Bool} {m : Nat} {t : Int} (h : roundF64Magnitude m t = 2047 * 2 ^ 52) :
    roundF64 s m t = f64Infinity s := by
  rw [roundF64, h]
  cases s <;> rfl

section
variable (s : Bool) (m : Nat) (t : Int)

theorem roundF64Magnitude_div_lt : roundF64Magnitude m t / 2 ^ 52 < 2 ^ 11 := by
  have hle := roundF64Magnitude_le m t
  omega

theorem f64Sign_roundF64 : f64Sign (roundF64 s m t) = s := by
  rw [roundF64_eq_assemblePattern]
  exact signField_assemblePattern legalLayout_binary64 (roundF64Magnitude_div_lt m t)
    (Nat.mod_lt _ (Nat.two_pow_pos 52)) s

theorem magnitude_roundF64 : magnitude (roundF64 s m t) 11 52 = roundF64Magnitude m t := by
  rw [roundF64_eq_assemblePattern, magnitude_assemblePattern legalLayout_binary64 (roundF64Magnitude_div_lt m t)
    (Nat.mod_lt _ (Nat.two_pow_pos 52)), Nat.div_add_mod']

theorem f64Value_roundF64 :
    f64Value (roundF64 s m t) = withSign s (gridValue 52 (-1074) (roundF64Magnitude m t)) := by
  rw [f64Value, f64Sign_roundF64, scaled_f64_eq_gridValue, magnitude_roundF64]

theorem f64Finite_roundF64_iff : F64Finite (roundF64 s m t) ↔ roundF64Magnitude m t < 2047 * 2 ^ 52 := by
  rw [f64Finite_iff, magnitude_roundF64]

/-- The parity of the fraction is that of the magnitude. -/
theorem f64Fv_roundF64_mod_two : f64Fv (roundF64 s m t) % 2 = roundF64Magnitude m t % 2 := by
  have hfv : f64Fv (roundF64 s m t) = roundF64Magnitude m t % 2 ^ 52 := by
    rw [← magnitude_roundF64 s, magnitude_mod]
    rfl
  omega

end

/-- round_f64 keeps a finite value of the binary64 grid. -/
theorem roundF64Magnitude_of_gridValue {m N : Nat} {t : Int} (h : gridValue 52 (-1074) N = scaled m t)
    (hN : N < 2047 * 2 ^ 52) : roundF64Magnitude m t = N := by
  refine (roundF64Magnitude_nearestOnGrid ?_).eq_of_gridValue_eq h
  rw [← h, ← gridValue_binary64_inf]
  exact gridValue_strictMono _ _ hN

/-! ### Layouts within binary64 -/

/-- The least exponent of a layout within binary64 is no less than binary64's. -/
theorem le_numberExp2_of_le (b : Word64) {E M : Nat} (hE : E ≤ 11) (hM : M ≤ 52) : -1074 ≤ numberExp2 b E M := by
  have hbias : 2 ^ (E - 1) ≤ 2 ^ 10 := Nat.pow_le_pow_right two_pos (by omega)
  rw [numberExp2, bias]
  split_ifs <;> omega

theorem maxExp_add_one_le {E : Nat} (hE1 : 1 ≤ E) (hE : E ≤ 11) : maxExp E + 1 ≤ 1024 := by
  have hbias : 2 ^ (E - 1) ≤ 2 ^ 10 := Nat.pow_le_pow_right two_pos (by omega)
  have hsplit : 2 ^ E = 2 * 2 ^ (E - 1) := by rw [← pow_succ', Nat.sub_add_cancel hE1]
  have hcast : (2 : ℤ) ^ E = ((2 ^ E : Nat) : ℤ) := by push_cast; rfl
  rw [maxExp, bias, hcast, hsplit]
  omega

/-! ### Signed distances -/

theorem abs_withSign_sub_withSign (s : Bool) (r x : ℚ) : |withSign s r - withSign s x| = |r - x| := by
  cases s
  · rfl
  · change |-r - -x| = |r - x|
    rw [neg_sub_neg, abs_sub_comm]

/-- Of two values of given magnitudes those of one sign are the nearer. -/
theorem abs_abs_sub_le (s : Bool) {x : ℚ} (hx : 0 ≤ x) (z : ℚ) : |(|z| - x)| ≤ |z - withSign s x| := by
  have h := abs_abs_sub_abs_le z (withSign s x)
  rwa [abs_withSign, abs_of_nonneg hx] at h

/-- Values of one magnitude and opposite signs are as near to x only where x is 0. -/
theorem eq_zero_of_opposite_signs_tie {s s' : Bool} {r x : ℚ} (hr : 0 ≤ r) (hx : 0 ≤ x)
    (hne : withSign s' r ≠ withSign s r) (htie : |r - x| = |withSign s' r - withSign s x|) : x = 0 := by
  have hsum : |withSign s' r - withSign s x| = r + x := by
    cases s <;> cases s'
    · exact absurd rfl hne
    · change |-r - x| = r + x
      rw [← neg_add', abs_neg, abs_of_nonneg (add_nonneg hr hx)]
    · change |r - -x| = r + x
      rw [sub_neg_eq_add, abs_of_nonneg (add_nonneg hr hx)]
    · exact absurd rfl hne
  have hr' : r ≠ 0 := by
    rintro rfl
    cases s <;> cases s' <;> exact hne (by simp [withSign])
  rw [hsum] at htie
  rcases abs_cases (r - x) with ⟨ha, -⟩ | ⟨ha, -⟩
  · linarith
  · exact absurd (by linarith) hr'


/-! ### The statements -/

/-- Settles O40: `roundF64Magnitude` is nearest on the grid of binary64, which no sign but the operand's can better, and
a tie leaves an even magnitude. -/
theorem roundF64IsNearestTiesToEven : Obligations.RoundF64IsNearestTiesToEven := by
  intro s m t
  refine ⟨f64Sign_roundF64 s m t, fun h => roundF64_of_magnitude_inf (roundF64Magnitude_eq_inf_of_le h), fun h => ?_⟩
  obtain ⟨hlt, hnear⟩ := roundF64Magnitude_lt_inf_of_lt h
  refine ⟨(f64Finite_roundF64_iff s m t).2 hlt, fun w _ => ?_⟩
  have hx := scaled_nonneg m t
  have hgrid := hnear.le (magnitude w 11 52)
  have hsigned := abs_abs_sub_le s hx (f64Value w)
  rw [abs_f64Value, scaled_f64_eq_gridValue] at hsigned
  rw [f64Value_roundF64, abs_withSign_sub_withSign, f64Fv_roundF64_mod_two]
  refine ⟨hgrid.trans hsigned, fun heq hne => ?_⟩
  by_cases hmag : magnitude w 11 52 = roundF64Magnitude m t
  · have hw : f64Value w = withSign (f64Sign w) (gridValue 52 (-1074) (roundF64Magnitude m t)) := by
      rw [f64Value, scaled_f64_eq_gridValue, hmag]
    rw [hw] at heq hne
    have hzero := eq_zero_of_opposite_signs_tie (gridValue_nonneg _ _ _) hx hne heq
    rw [hnear.eq_of_gridValue_eq ((gridValue_zero _ _).trans hzero.symm)]
  · exact hnear.tie _ hmag (le_antisymm hgrid (hsigned.trans heq.ge))

/-- Settles O39: SIG has at most 53 bits and EXP2 is at least -1074, so the value is on the grid of binary64, and it
lies below 2^(max_exp + 1). -/
theorem valueIsExactWithinBinary64 : Obligations.ValueIsExactWithinBinary64 := by
  intro b E M hl hE11 hM52 hcls
  have he := (decCore_cls_eq_number_iff b E M).1 hcls
  have hsig : numberSig b E M < 2 ^ (52 + 1) :=
    (numberSig_lt b E M).trans_le (Nat.pow_le_pow_right two_pos (by omega))
  obtain ⟨N, hN⟩ := exists_gridValue_eq hsig (le_numberExp2_of_le b hE11 hM52)
  have hlt : N < 2047 * 2 ^ 52 := by
    apply (gridValue_strictMono 52 (-1074)).lt_iff_lt.1
    calc gridValue 52 (-1074) N = gridValue M (leastExp E M) (magnitude b E M) := by
          rw [hN, scaled_number_eq_gridValue]
      _ < gridValue M (leastExp E M) (emask E * 2 ^ M) := gridValue_strictMono _ _ ((magnitude_lt_iff b E M).2 he)
      _ ≤ gridValue 52 (-1074) (2047 * 2 ^ 52) := by
          rw [gridValue_emask hl.1, gridValue_binary64_inf]
          exact zpow_le_zpow_right₀ one_le_two (maxExp_add_one_le hl.1 hE11)
  have hmag := roundF64Magnitude_of_gridValue hN hlt
  have hvalue : (decCore b E M).value = roundF64 (signField b E M) (numberSig b E M) (numberExp2 b E M) := by
    rw [decCore_of_number he]
  rw [hvalue, f64Finite_roundF64_iff, f64Value_roundF64, hmag, hN, decCore_exactValue hl he]
  exact ⟨hlt, rfl⟩

end Sys2Proof.Machine
end

section
/-! ENC_CORE as a rounding to the grid of the layout (42_encode.md R154, R164, R165): the threshold of overflow, the
fields before the carry as a nearest magnitude, and the encoded pattern's magnitude first, then the statements. -/

namespace Sys2Proof.Machine

/-! ### rhaz as a nearest integer -/

/-- rhaz is within a half of its argument, and above it on a tie (R155). -/
theorem rhaz_nearest (m : Nat) (t : Int) :
    |(rhaz m t : ℚ) - scaled m t| ≤ 1 / 2 ∧ (|(rhaz m t : ℚ) - scaled m t| = 1 / 2 → scaled m t < rhaz m t) := by
  have hfloor : ((rhaz m t : ℤ) : ℚ) = (⌊scaled m t + 1 / 2⌋ : ℤ) := congrArg _ (rhaz_eq_floor m t)
  have hle := Int.floor_le (scaled m t + 1 / 2)
  have hlt := Int.lt_floor_add_one (scaled m t + 1 / 2)
  rw [← hfloor, Int.cast_natCast] at hle hlt
  refine ⟨abs_le.2 ⟨by linarith, by linarith⟩, fun htie => ?_⟩
  rcases abs_cases ((rhaz m t : ℚ) - scaled m t) with ⟨ha, -⟩ | ⟨ha, -⟩ <;> linarith

/-- On the normal path the hidden 1 can be rounded with the fraction. -/
theorem two_pow_add_rhaz {m : Nat} (hm : 0 < m) (M : Nat) :
    2 ^ M + rhaz (m - 2 ^ Nat.log2 m) ((M : Int) - Nat.log2 m) = rhaz m ((M : Int) - Nat.log2 m) := by
  have hone : scaled (2 ^ Nat.log2 m) ((M : Int) - Nat.log2 m) = ((2 ^ M : Int) : ℚ) := by
    rw [scaled_two_pow, add_sub_cancel, zpow_natCast]
    push_cast
    rfl
  have hfloor := rhaz_eq_floor (m - 2 ^ Nat.log2 m) ((M : Int) - Nat.log2 m)
  rw [scaled_sub (Nat.log2_self_le hm.ne'), hone, sub_add_eq_add_sub, Int.floor_sub_intCast, ← rhaz_eq_floor] at hfloor
  have hcast : ((2 ^ M : Nat) : Int) = 2 ^ M := by push_cast; rfl
  omega

/-- A multiple of the spacing nearest to m · 2^t, by rhaz on the scaled value. -/
theorem binadeRounding_rhaz {M m q : Nat} {e t : Int} (hlow : q = 0 ∨ scaled (2 ^ M) (e + q) ≤ scaled m t)
    (hhigh : scaled m t < scaled (2 ^ (M + 1)) (e + q)) :
    BinadeRounding M e (scaled m t) q (rhaz m (t - (e + q))) ∧
      (|scaled (rhaz m (t - (e + q))) (e + q) - scaled m t| = (2 : ℚ) ^ (e + q) / 2 →
        scaled m t < scaled (rhaz m (t - (e + q))) (e + q)) := by
  obtain ⟨hwithin, htie⟩ := rhaz_nearest m (t - (e + q))
  have hpow : (0 : ℚ) < (2 : ℚ) ^ (e + q) := by positivity
  rw [abs_scaled_sub_scaled]
  refine ⟨⟨?_, hlow, hhigh⟩, fun heq => ?_⟩
  · rw [abs_scaled_sub_scaled]
    linarith [mul_le_mul_of_nonneg_right hwithin hpow.le]
  · have hlt := mul_lt_mul_of_pos_right (htie (mul_right_cancel₀ hpow.ne' (heq.trans (by ring)))) hpow
    rwa [scaled_mul_two_zpow, sub_add_cancel, ← scaled] at hlt

/-! ### The fields before the carry as a nearest magnitude -/

/-- The nearest magnitude of m · 2^t, a tie going up. -/
def NearestTieUp (m : Nat) (t : Int) (E M N : Nat) : Prop :=
  NearestOnGrid M (leastExp E M) (scaled m t) N (scaled m t < gridValue M (leastExp E M) N)

theorem nearestTieUp_of_binade {m q E M : Nat} {t : Int}
    (hlow : q = 0 ∨ scaled (2 ^ M) (leastExp E M + q) ≤ scaled m t)
    (hhigh : scaled m t < scaled (2 ^ (M + 1)) (leastExp E M + q)) :
    NearestTieUp m t E M (q * 2 ^ M + rhaz m (t - (leastExp E M + q))) := by
  obtain ⟨hround, htie⟩ := binadeRounding_rhaz hlow hhigh
  rw [NearestTieUp, hround.gridValue_eq]
  exact hround.nearestOnGrid htie

theorem le_maxExp_of_encFields {m E M : Nat} {t : Int} {f : Nat × Nat} (h : encFields m t E M = some f) :
    ilog2 m t ≤ maxExp E := by
  by_contra hgt
  cases (encFields_of_overflow (not_le.1 hgt) M).symm.trans h

/-- The subnormal path rounds to the least spacing. -/
theorem nearestTieUp_of_subnormal {m E : Nat} {t : Int} (hmin : ilog2 m t < minExp E) (M : Nat) :
    NearestTieUp m t E M (0 * 2 ^ M + rhaz m (t - minExp E + M)) := by
  have hspacing : leastExp E M + (0 : Nat) = minExp E - M := by rw [leastExp, Nat.cast_zero, add_zero]
  have hhigh : scaled m t < scaled (2 ^ (M + 1)) (leastExp E M + (0 : Nat)) := by
    rw [hspacing, scaled_two_pow]
    exact (lt_two_zpow_ilog2_add_one m t).trans_le (zpow_le_zpow_right₀ one_le_two (by omega))
  have key := nearestTieUp_of_binade (.inl rfl) hhigh
  rwa [hspacing, ← sub_add] at key

/-- The normal path rounds to the spacing of the operand's binade. -/
theorem nearestTieUp_of_normal {m E : Nat} {t : Int} (hm : 0 < m) (hmin : minExp E ≤ ilog2 m t) (M : Nat) :
    NearestTieUp m t E M
      ((ilog2 m t + bias E).toNat * 2 ^ M + rhaz (m - 2 ^ Nat.log2 m) ((M : Int) - Nat.log2 m)) := by
  obtain ⟨q, hq⟩ := Int.le.dest hmin
  have hspacing : leastExp E M + q = ilog2 m t - M := by
    rw [leastExp]
    omega
  have hlow : scaled (2 ^ M) (leastExp E M + q) ≤ scaled m t := by
    rw [hspacing, scaled_two_pow, add_sub_cancel]
    exact two_zpow_ilog2_le hm t
  have hhigh : scaled m t < scaled (2 ^ (M + 1)) (leastExp E M + q) := by
    rw [hspacing, scaled_two_pow]
    exact (lt_two_zpow_ilog2_add_one m t).trans_le (zpow_le_zpow_right₀ one_le_two (by omega))
  have key := nearestTieUp_of_binade (.inr hlow) hhigh
  have harg : t - (leastExp E M + q) = (M : Int) - Nat.log2 m := by
    rw [hspacing, ilog2]
    omega
  have hfield : (ilog2 m t + bias E).toNat = q + 1 := by
    rw [minExp] at hq
    omega
  rwa [harg, ← two_pow_add_rhaz hm, ← Nat.add_assoc, ← Nat.succ_mul, Nat.succ_eq_add_one, ← hfield] at key

/-- ENC_CORE's fields are the nearest magnitude of the operand, on either path (R153 to R155). -/
theorem encFields_nearestTieUp {m E M : Nat} {t : Int} {f : Nat × Nat} (hm : 0 < m)
    (h : encFields m t E M = some f) : NearestTieUp m t E M (f.1 * 2 ^ M + f.2) := by
  have hmax := le_maxExp_of_encFields h
  rcases lt_or_ge (ilog2 m t) (minExp E) with hmin | hmin
  · obtain rfl := Option.some.inj ((encFields_of_subnormal hmax hmin M).symm.trans h)
    exact nearestTieUp_of_subnormal hmin M
  · obtain rfl := Option.some.inj ((encFields_of_normal hmax hmin M).symm.trans h)
    exact nearestTieUp_of_normal hm hmin M

/-! ### The threshold of overflow (R154, R156) -/

/-- The largest finite value in its binade: a subnormal one with E = 1, the last of the top binade otherwise. -/
theorem exists_largest {E : Nat} (hE : 1 ≤ E) (M : Nat) :
    ∃ q, emask E * 2 ^ M = q * 2 ^ M + (largestSig E M + 1) ∧ (q = 0 ∨ 2 ^ M ≤ largestSig E M) ∧
      largestSig E M + 1 ≤ 2 ^ (M + 1) ∧ largestExp2 E M = leastExp E M + q := by
  have hM : 1 ≤ 2 ^ M := Nat.one_le_two_pow
  have hM1 : 2 ^ (M + 1) = 2 * 2 ^ M := pow_succ' 2 M
  obtain rfl | hE2 := Nat.eq_or_lt_of_le hE
  · have hmask : emask 1 = 1 := rfl
    have hmin : minExp 1 = 1 := rfl
    have hsig : largestSig 1 M = 2 ^ M - 1 := if_pos rfl
    refine ⟨0, by rw [hmask]; omega, .inl rfl, by omega, ?_⟩
    rw [largestExp2, if_pos rfl, leastExp, hmin, Nat.cast_zero, add_zero]
  · have htwo : 2 ≤ emask E := by
      have hfour : 2 ^ 2 ≤ 2 ^ E := Nat.pow_le_pow_right two_pos hE2
      rw [emask]
      omega
    have hsig : largestSig E M = 2 ^ (M + 1) - 1 := if_neg (by omega)
    have hcast : ((emask E - 2 : Nat) : ℤ) = 2 ^ E - 3 := by
      rw [Nat.cast_sub htwo, emask, Nat.cast_sub Nat.one_le_two_pow]
      push_cast
      ring
    have hsplit : emask E * 2 ^ M = (emask E - 2) * 2 ^ M + 2 * 2 ^ M := by
      rw [← Nat.add_mul, Nat.sub_add_cancel htwo]
    refine ⟨emask E - 2, by omega, .inr (by omega), by omega, ?_⟩
    rw [largestExp2, if_neg (by omega), leastExp, hcast, maxExp, minExp]
    ring

/-- The threshold is the midpoint past the largest finite magnitude. -/
theorem overflowThreshold_eq {E : Nat} (hE : 1 ≤ E) (M : Nat) :
    overflowThreshold E M = gridMidpoint M (leastExp E M) (emask E * 2 ^ M - 1) := by
  obtain ⟨q, hK, hlow, hhigh, hexp⟩ := exists_largest hE M
  rw [hK, gridMidpoint, ← Nat.add_assoc, Nat.add_sub_cancel, Nat.add_assoc,
    gridValue_mul_add hlow (Nat.le_of_succ_le hhigh), gridValue_mul_add (hlow.imp_right Nat.le_succ_of_le) hhigh,
    scaled_succ, scaled, ← hexp, overflowThreshold]
  ring

theorem emask_mul_two_pow_pos {E : Nat} (hE : 1 ≤ E) (M : Nat) : 0 < emask E * 2 ^ M :=
  Nat.mul_pos (emask_pos hE) (Nat.two_pow_pos M)

/-- The threshold lies below 2^(max_exp + 1). -/
theorem overflowThreshold_lt {E : Nat} (hE : 1 ≤ E) (M : Nat) :
    overflowThreshold E M < (2 : ℚ) ^ (maxExp E + 1) := by
  have hK := Nat.sub_add_cancel (emask_mul_two_pow_pos hE M)
  have hstep := gridValue_strictMono M (leastExp E M) (Nat.lt_succ_self (emask E * 2 ^ M - 1))
  rw [Nat.succ_eq_add_one, hK] at hstep
  rw [overflowThreshold_eq hE, gridMidpoint, hK, ← gridValue_emask hE M]
  linarith

/-- A tie that goes up leaves no magnitude below the threshold's. -/
theorem NearestTieUp.lt_emask_iff {m E M N : Nat} {t : Int} (h : NearestTieUp m t E M N) (hE : 1 ≤ E) :
    N < emask E * 2 ^ M ↔ scaled m t < overflowThreshold E M := by
  have hpos := emask_mul_two_pow_pos hE M
  have hK := Nat.sub_add_cancel hpos
  rw [overflowThreshold_eq hE]
  refine ⟨fun hlt => ?_, fun hx => Nat.lt_of_le_sub_one hpos (h.le_of_lt_midpoint hx)⟩
  by_contra hx
  obtain hgt | ⟨hN, htie⟩ := h.lt_or_tie_of_midpoint_le (not_lt.1 hx)
  · omega
  · have hup := h.tie _ (by omega) htie
    have hstep := gridValue_strictMono M (leastExp E M) (Nat.lt_succ_self N)
    rw [← hN, abs_of_pos (by linarith), abs_of_pos (by linarith)] at htie
    linarith

/-! ### The encoded pattern -/

theorem encFields_of_lt {m E : Nat} {t : Int} (hm : 0 < m) (h : scaled m t < (2 : ℚ) ^ (maxExp E + 1)) (M : Nat) :
    ∃ f, encFields m t E M = some f := by
  have hmax : ilog2 m t ≤ maxExp E := Int.le_of_lt_add_one (ilog2_lt_of_lt hm h)
  rcases lt_or_ge (ilog2 m t) (minExp E) with hmin | hmin
  · exact ⟨_, encFields_of_subnormal hmax hmin M⟩
  · exact ⟨_, encFields_of_normal hmax hmin M⟩

/-- Before the carry the fields make a magnitude of at most the infinities' (R151). -/
theorem encFields_magnitude_le {m E M : Nat} {t : Int} {f : Nat × Nat} (hE : 1 ≤ E) (hm : 0 < m)
    (h : encFields m t E M = some f) : f.1 * 2 ^ M + f.2 ≤ emask E * 2 ^ M := by
  obtain ⟨hef, hn⟩ := encFields_bounds hE hm h
  calc f.1 * 2 ^ M + f.2 ≤ (f.1 + 1) * 2 ^ M := by rw [Nat.succ_mul]; omega
    _ ≤ emask E * 2 ^ M := Nat.mul_le_mul_right _ hef

section
variable {v : Word64} {E M : Nat} (hl : LegalLayout E M) (hv : F64Finite v) (hz : f64IsZero v = false)
include hl hv hz

/-- Sign and magnitude of an encoded operand that does not overflow before rounding, the carry being that of the sum. -/
theorem encCore_sign_magnitude {f : Nat × Nat} (h : encFields (f64Sig v) (f64Exp v) E M = some f) :
    signField (encCore v E M) E M = f64Sign v ∧ magnitude (encCore v E M) E M = f.1 * 2 ^ M + f.2 := by
  obtain ⟨hef, hn⟩ := encFields_bounds hl.1 (f64Sig_pos hz) h
  obtain ⟨hef', hn'⟩ := carryFields_fit hef hn
  rw [encCore_of_encFields hv hz h, signField_assemblePattern hl hef' hn', magnitude_assemblePattern hl hef' hn',
    carryFields_value]
  exact ⟨rfl, rfl⟩

/-- Below the threshold ENC_CORE gives the nearest magnitude, with the operand's sign. -/
theorem encCore_of_lt_threshold (hx : scaled (f64Sig v) (f64Exp v) < overflowThreshold E M) :
    signField (encCore v E M) E M = f64Sign v ∧ magnitude (encCore v E M) E M < emask E * 2 ^ M ∧
      NearestTieUp (f64Sig v) (f64Exp v) E M (magnitude (encCore v E M) E M) := by
  obtain ⟨f, hf⟩ := encFields_of_lt (f64Sig_pos hz) (hx.trans (overflowThreshold_lt hl.1 M)) M
  have hnear := encFields_nearestTieUp (f64Sig_pos hz) hf
  obtain ⟨hsign, hmag⟩ := encCore_sign_magnitude hl hv hz hf
  rw [hmag]
  exact ⟨hsign, (hnear.lt_emask_iff hl.1).2 hx, hnear⟩

/-- From the threshold on ENC_CORE gives the magnitude of the infinities, by the carry or by exp > max_exp. -/
theorem encCore_of_threshold_le (hx : overflowThreshold E M ≤ scaled (f64Sig v) (f64Exp v)) :
    signField (encCore v E M) E M = f64Sign v ∧ magnitude (encCore v E M) E M = emask E * 2 ^ M := by
  rcases lt_or_ge (scaled (f64Sig v) (f64Exp v)) ((2 : ℚ) ^ (maxExp E + 1)) with hlt | hge
  · obtain ⟨f, hf⟩ := encFields_of_lt (f64Sig_pos hz) hlt M
    obtain ⟨hsign, hmag⟩ := encCore_sign_magnitude hl hv hz hf
    have hle := encFields_magnitude_le hl.1 (f64Sig_pos hz) hf
    have hnot := mt ((encFields_nearestTieUp (f64Sig_pos hz) hf).lt_emask_iff hl.1).1 (not_lt.2 hx)
    exact ⟨hsign, hmag.trans (le_antisymm hle (not_lt.1 hnot))⟩
  · have hlog : maxExp E < ilog2 (f64Sig v) (f64Exp v) :=
      Int.lt_of_add_lt_add_right
        ((zpow_lt_zpow_iff_right₀ one_lt_two).1 (hge.trans_lt (lt_two_zpow_ilog2_add_one _ _)))
    rw [encCore_of_overflow hv hz hlog, infPattern,
      signField_assemblePattern hl (emask_lt E) (Nat.two_pow_pos M),
      magnitude_assemblePattern hl (emask_lt E) (Nat.two_pow_pos M)]
    exact ⟨rfl, rfl⟩

end

/-! ### Classes and values of decoded patterns -/

theorem decCore_cls_eq_number_iff_magnitude (b : Word64) (E M : Nat) :
    (decCore b E M).cls = .number ↔ magnitude b E M < emask E * 2 ^ M := by
  rw [decCore_cls_eq_number_iff, magnitude_lt_iff]

/-- The pattern of an infinity has the magnitude just past the finite ones. -/
theorem decCore_cls_of_magnitude_eq {b : Word64} {E M : Nat} (h : magnitude b E M = emask E * 2 ^ M) :
    (decCore b E M).cls = .inf := by
  have he : expField b E M = emask E := by
    rw [← magnitude_div, h, Nat.mul_div_cancel _ (Nat.two_pow_pos M)]
  have hm : mantField b M = 0 := by rw [← magnitude_mod b E M, h, Nat.mul_mod_left]
  rw [decCore_of_inf he hm]

theorem decCore_cls_eq_inf {b : Word64} {E M : Nat} (h : (decCore b E M).cls = .inf) :
    expField b E M = emask E ∧ mantField b M = 0 := by
  rcases decCore_fields_cases b E M with hinf | ⟨he, hm⟩ | he
  · exact hinf
  · rw [decCore_of_nan he hm] at h
    cases h
  · rw [decCore_of_number he] at h
    cases h

theorem decCore_cls_eq_nan {b : Word64} {E M : Nat} (h : (decCore b E M).cls = .nan) :
    expField b E M = emask E ∧ mantField b M ≠ 0 := by
  rcases decCore_fields_cases b E M with ⟨he, hm⟩ | hnan | he
  · rw [decCore_of_inf he hm] at h
    cases h
  · exact hnan
  · rw [decCore_of_number he] at h
    cases h

/-- The exact value of a NUMBER pattern is that of its sign and magnitude. -/
theorem decCore_exactValue_eq_gridValue {b : Word64} {E M : Nat} (hl : LegalLayout E M)
    (hcls : (decCore b E M).cls = .number) :
    (decCore b E M).exactValue = withSign (signField b E M) (gridValue M (leastExp E M) (magnitude b E M)) := by
  rw [decCore_exactValue hl ((decCore_cls_eq_number_iff b E M).1 hcls), scaled_number_eq_gridValue]

/-- The bits of a pattern of total bits are its sign bit and its magnitude. -/
theorem toNat_eq_sign_add_magnitude {b : Word64} {E M : Nat} (h : b.toNat < 2 ^ (1 + E + M)) :
    b.toNat = (if signField b E M then 2 ^ (1 + E + M - 1) else 0) + magnitude b E M := by
  have hmag : b.toNat % 2 ^ (E + M) = magnitude b E M := by
    rw [add_comm E, pow_add, Nat.mod_mul, magnitude, mantField, expField]
    ring
  have hdiv : b.toNat / 2 ^ (E + M) < 2 := by
    rw [Nat.div_lt_iff_lt_mul (Nat.two_pow_pos _), ← pow_succ']
    exact h.trans_eq (by congr 1; omega)
  have hsplit := Nat.div_add_mod' b.toNat (2 ^ (E + M))
  have hsign : signField b E M = decide (b.toNat / 2 ^ (E + M) = 1) := by
    rw [signField_eq, ← BitVec.testBit_toNat, Nat.testBit_eq_decide_div_mod_eq, Nat.mod_eq_of_lt hdiv]
  rw [hmag] at hsplit
  rw [hsign, Nat.add_assoc, Nat.add_sub_cancel_left]
  obtain h0 | h1 := Nat.le_one_iff_eq_zero_or_eq_one.1 (Nat.le_of_lt_succ hdiv)
  · rw [h0] at hsplit ⊢
    simpa using hsplit.symm
  · rw [h1] at hsplit ⊢
    simpa using hsplit.symm

/-- A pattern of total bits is fixed by its sign bit and its magnitude. -/
theorem eq_of_sign_magnitude_eq {b c : Word64} {E M : Nat} (hb : b.toNat < 2 ^ (1 + E + M))
    (hc : c.toNat < 2 ^ (1 + E + M)) (hsign : signField b E M = signField c E M)
    (hmag : magnitude b E M = magnitude c E M) : b = c := by
  apply BitVec.eq_of_toNat_eq
  rw [toNat_eq_sign_add_magnitude hb, toNat_eq_sign_add_magnitude hc, hsign, hmag]

/-! ### The branches of ENC_CORE -/

theorem f64_classes (v : Word64) :
    f64IsNaN v = true ∨ f64IsInf v = true ∨ f64IsZero v = true ∨ (F64Finite v ∧ f64IsZero v = false) := by
  by_cases he : f64Ev v = 2047
  · by_cases hf : f64Fv v = 0
    · exact .inr (.inl (decide_eq_true ⟨he, hf⟩))
    · exact .inl (decide_eq_true ⟨he, hf⟩)
  · cases hz : f64IsZero v with
    | true => exact .inr (.inr (.inl rfl))
    | false => exact .inr (.inr (.inr ⟨he, rfl⟩))

theorem assemblePattern_toNat_lt {E M ef n : Nat} (hl : LegalLayout E M) (hef : ef < 2 ^ E) (hn : n < 2 ^ M)
    (s : Bool) : (assemblePattern s ef n E M).toNat < 2 ^ (1 + E + M) := by
  have hfields : (if s then 2 ^ E else 0) + ef < 2 * 2 ^ E := by
    split_ifs <;> omega
  rw [assemblePattern_toNat hl hef hn]
  calc ((if s then 2 ^ E else 0) + ef) * 2 ^ M + n < ((if s then 2 ^ E else 0) + ef + 1) * 2 ^ M := by
        rw [Nat.succ_mul]
        omega
    _ ≤ 2 * 2 ^ E * 2 ^ M := Nat.mul_le_mul_right _ hfields
    _ = 2 ^ (1 + E + M) := by ring

theorem encCore_of_encFields_none {v : Word64} (hv : F64Finite v) (hz : f64IsZero v = false) {E M : Nat}
    (h : encFields (f64Sig v) (f64Exp v) E M = none) : encCore v E M = infPattern (f64Sign v) E M := by
  simp only [encCore, hv.isNaN, hv.isInf, hz, Bool.false_eq_true, if_false, h]

/-! ### Encoding a decoded value -/

/-- ENC_CORE gives back a finite value of the layout's grid, zeros among them. -/
theorem encCore_of_gridValue {v : Word64} {E M N : Nat} (hl : LegalLayout E M) (hv : F64Finite v)
    (hN : gridValue M (leastExp E M) N = scaled (f64Sig v) (f64Exp v)) (hlt : N < emask E * 2 ^ M) :
    signField (encCore v E M) E M = f64Sign v ∧ magnitude (encCore v E M) E M = N := by
  cases hz : f64IsZero v with
  | true =>
    have hzero : N = 0 := by
      obtain ⟨hev, hfv⟩ := of_decide_eq_true hz
      apply (gridValue_strictMono M (leastExp E M)).injective
      rw [hN, gridValue_zero, f64Sig, if_pos hev, hfv, scaled, Nat.cast_zero, zero_mul]
    have hpowE := Nat.two_pow_pos E
    have hpowM := Nat.two_pow_pos M
    rw [encCore_of_zero hz, signField_assemblePattern hl hpowE hpowM, magnitude_assemblePattern hl hpowE hpowM, hzero,
      Nat.zero_mul]
    exact ⟨rfl, rfl⟩
  | false =>
    have hpow : scaled (f64Sig v) (f64Exp v) < (2 : ℚ) ^ (maxExp E + 1) := by
      rw [← hN, ← gridValue_emask hl.1 M]
      exact gridValue_strictMono _ _ hlt
    obtain ⟨f, hf⟩ := encFields_of_lt (f64Sig_pos hz) hpow M
    obtain ⟨hsign, hmag⟩ := encCore_sign_magnitude hl hv hz hf
    exact ⟨hsign, hmag.trans ((encFields_nearestTieUp (f64Sig_pos hz) hf).eq_of_gridValue_eq hN)⟩

theorem f64Sign_f64Infinity (s : Bool) : f64Sign (f64Infinity s) = s := by cases s <;> decide

theorem f64IsInf_f64Infinity (s : Bool) : f64IsInf (f64Infinity s) = true := by cases s <;> decide

theorem decCore_nanPattern {E M : Nat} (hl : LegalLayout E M) (hM : 1 ≤ M) :
    (decCore (nanPattern E M) E M).cls = .nan := by
  have he : expField (nanPattern E M) E M = emask E :=
    expField_assemblePattern hl (emask_lt E) (nanMantissa_lt M) false
  have hm := mantField_assemblePattern hl (emask_lt E) (nanMantissa_lt M) false
  have hne : mantField (nanPattern E M) M ≠ 0 := (hm.trans (if_pos hM)).trans_ne (Nat.two_pow_pos _).ne'
  rw [decCore_of_nan he hne]

/-! ### The statements -/

/-- Settles O43: every branch of ENC_CORE assembles fields that fit. -/
theorem encodedPatternFitsTheLayout : Obligations.EncodedPatternFitsTheLayout := by
  intro v E M hl
  have hn := Nat.two_pow_pos M
  obtain h | h | h | ⟨hv, hz⟩ := f64_classes v
  · rw [encCore_of_nan h]
    exact assemblePattern_toNat_lt hl (emask_lt E) (nanMantissa_lt M) _
  · rw [encCore_of_inf h]
    exact assemblePattern_toNat_lt hl (emask_lt E) hn _
  · rw [encCore_of_zero h]
    exact assemblePattern_toNat_lt hl (Nat.two_pow_pos E) hn _
  · cases hf : encFields (f64Sig v) (f64Exp v) E M with
    | none =>
      rw [encCore_of_encFields_none hv hz hf]
      exact assemblePattern_toNat_lt hl (emask_lt E) hn _
    | some f =>
      obtain ⟨hef, hn⟩ := encFields_bounds hl.1 (f64Sig_pos hz) hf
      obtain ⟨hef', hn'⟩ := carryFields_fit hef hn
      rw [encCore_of_encFields hv hz hf]
      exact assemblePattern_toNat_lt hl hef' hn' _

/-- Settles O47: the infinity is an assembly, whose fields can be read back. -/
theorem overflowGivesInfinity : Obligations.OverflowGivesInfinity := by
  intro v E M hl hv hz h
  have hn := Nat.two_pow_pos M
  rw [encCore_of_overflow hv hz h, infPattern]
  exact ⟨signField_assemblePattern hl (emask_lt E) hn _, expField_assemblePattern hl (emask_lt E) hn _,
    mantField_assemblePattern hl (emask_lt E) hn _⟩

/-- Settles O48: on either side of the threshold the magnitude is finite or that of the infinities. -/
theorem encodeOverflowsExactlyAtTheThreshold : Obligations.EncodeOverflowsExactlyAtTheThreshold := by
  intro v E M hl hv hz
  rw [abs_f64Value, decCore_sign]
  rcases lt_or_ge (scaled (f64Sig v) (f64Exp v)) (overflowThreshold E M) with hx | hx
  · obtain ⟨hsign, hlt, -⟩ := encCore_of_lt_threshold hl hv hz hx
    have hcls := (decCore_cls_eq_number_iff_magnitude _ _ _).2 hlt
    rw [hcls]
    exact ⟨⟨nofun, fun hge => absurd hx (not_lt.2 hge)⟩, nofun, hsign⟩
  · obtain ⟨hsign, heq⟩ := encCore_of_threshold_le hl hv hz hx
    rw [decCore_cls_of_magnitude_eq heq]
    exact ⟨⟨fun _ => hx, fun _ => rfl⟩, nofun, hsign⟩

/-- Settles O49: the encoded magnitude is nearest on the grid, which no sign but the operand's can better, and a tie
goes up. -/
theorem encodeGivesTheNearestValue : Obligations.EncodeGivesTheNearestValue := by
  intro v E M hl hv hz hx
  rw [abs_f64Value] at hx
  obtain ⟨hsign, hlt, hnear⟩ := encCore_of_lt_threshold hl hv hz hx
  have hcls := (decCore_cls_eq_number_iff_magnitude _ _ _).2 hlt
  refine ⟨hcls, fun b hb => ?_⟩
  have hgrid := hnear.le (magnitude b E M)
  have hsigned := abs_abs_sub_le (f64Sign v) (scaled_nonneg (f64Sig v) (f64Exp v)) (decCore b E M).exactValue
  have habs : |(decCore b E M).exactValue| = gridValue M (leastExp E M) (magnitude b E M) := by
    rw [decCore_exactValue_eq_gridValue hl hb, abs_withSign, abs_of_nonneg (gridValue_nonneg _ _ _)]
  rw [habs] at hsigned
  rw [habs, decCore_exactValue_eq_gridValue hl hcls, hsign, f64Value, abs_withSign_sub_withSign, abs_withSign,
    abs_of_nonneg (gridValue_nonneg _ _ _)]
  refine ⟨hgrid.trans hsigned, fun heq => ?_⟩
  rcases eq_or_ne (magnitude b E M) (magnitude (encCore v E M) E M) with hmag | hmag
  · rw [hmag]
  · have htie := le_antisymm hgrid (hsigned.trans heq.ge)
    have hup := hnear.tie _ hmag htie
    have hle := le_abs_self (gridValue M (leastExp E M) (magnitude b E M) - scaled (f64Sig v) (f64Exp v))
    rw [← htie, abs_of_pos (sub_pos.2 hup)] at hle
    exact (sub_le_sub_iff_right _).1 hle

/-- Settles O50: VALUE keeps the sign and, being exact, the magnitude of a NUMBER, and ENC_CORE gives both back; an
infinity is assembled again, and F64_QNAN is a NaN. -/
theorem encodeOfDecodedValueIsThePattern : Obligations.EncodeOfDecodedValueIsThePattern := by
  intro b E M hl hb
  refine ⟨fun hcls hfin hexact => ?number, fun hcls => ?inf, fun hcls => ?nan⟩
  case number =>
    have hlt := (decCore_cls_eq_number_iff_magnitude b E M).1 hcls
    have hsign : f64Sign (decCore b E M).value = signField b E M := by
      rw [decCore_of_number ((decCore_cls_eq_number_iff b E M).1 hcls)]
      exact f64Sign_roundF64 _ _ _
    have habs := congrArg abs hexact
    rw [abs_f64Value, decCore_exactValue_eq_gridValue hl hcls, abs_withSign, abs_of_nonneg (gridValue_nonneg _ _ _)]
      at habs
    obtain ⟨hs, hm⟩ := encCore_of_gridValue hl hfin habs.symm hlt
    exact eq_of_sign_magnitude_eq (encodedPatternFitsTheLayout _ E M hl) hb (hs.trans hsign) hm
  case inf =>
    obtain ⟨he, hm⟩ := decCore_cls_eq_inf hcls
    have hvalue : (decCore b E M).value = f64Infinity (signField b E M) := by
      rw [decCore_of_inf he hm]
      rfl
    have hn := Nat.two_pow_pos M
    rw [hvalue, encCore_of_inf (f64IsInf_f64Infinity _), f64Sign_f64Infinity, infPattern]
    refine eq_of_sign_magnitude_eq (assemblePattern_toNat_lt hl (emask_lt E) hn _) hb
      (signField_assemblePattern hl (emask_lt E) hn _) ?_
    rw [magnitude_assemblePattern hl (emask_lt E) hn, magnitude, he, hm]
  case nan =>
    obtain ⟨he, hm⟩ := decCore_cls_eq_nan hcls
    have hM : 1 ≤ M := by
      by_contra hM
      obtain rfl : M = 0 := by omega
      exact hm (Nat.mod_one _)
    have hvalue : (decCore b E M).value = f64QNaN := by rw [decCore_of_nan he hm]
    have hnan : f64IsNaN f64QNaN = true := by decide
    rw [hvalue]
    exact ⟨hM, encCore_of_nan hnan E M, decCore_nanPattern hl hM⟩

end Sys2Proof.Machine
end
